-- ==== Sys2Proof/Word.lean ====
section
/-! DEFINITION. The word types, their plainest arithmetic, and the sparse maps that hold registers and memory. -/

namespace Sys2Proof

abbrev Byte := BitVec 8
abbrev Word := BitVec 32
abbrev DWord := BitVec 64

/-- Round a count up to whole units. -/
def ceilDiv (a b : Nat) : Nat := (a + b - 1) / b

/-- A sparse map from keys to values, as a list. `Sparse.isWf` names its one canonical form: keys
strictly rising, no entry equal to the default that an unlisted key reads as. -/
abbrev Sparse (α : Type) := List (Nat × α)

namespace Sparse

variable {α : Type}

/-- What key `k` holds; `d` is what an unlisted key reads as. -/
def get (d : α) (m : Sparse α) (k : Nat) : α :=
  match m with
  | [] => d
  | (k', v) :: t => if k' = k then v else get d t k

/-- The map without key `k`. -/
def erase (m : Sparse α) (k : Nat) : Sparse α :=
  match m with
  | [] => []
  | (k', v) :: t => if k' = k then erase t k else (k', v) :: erase t k

/-- Place an entry before the first greater key. -/
def insert (m : Sparse α) (k : Nat) (v : α) : Sparse α :=
  match m with
  | [] => [(k, v)]
  | (k', v') :: t => if k < k' then (k, v) :: (k', v') :: t else (k', v') :: insert t k v

/-- Write key `k`; writing the default removes the entry. -/
def set [DecidableEq α] (d : α) (m : Sparse α) (k : Nat) (v : α) : Sparse α :=
  if v = d then erase m k else insert (erase m k) k v

/-- The canonical form: keys strictly rising and no entry equal to the default. -/
def isWf [DecidableEq α] (d : α) (m : Sparse α) : Bool :=
  decide (m.Pairwise (fun a b => a.1 < b.1)) && decide (∀ e ∈ m, e.2 ≠ d)

/-- Remove every key that `p` names. -/
def dropKeys (p : Nat → Bool) (m : Sparse α) : Sparse α := m.filter (fun e => ! p e.1)

end Sparse

end Sys2Proof
end

