-- ==== Sys2Proof/Syntax.lean ====
section
/-! DEFINITION. The instructions and events of the opcode table as data: operands, modifiers, the fields that every
96-bit word carries (R169-R177), and one constructor of `Instr` for each row. -/

namespace Sys2Proof

/-- The special registers of R75. -/
inductive SReg where
  | laneid | waveid | blockidX | blockidY | blockidZ | clusterid | sdid | griddimX | griddimY | griddimZ
  | taskid | lanemask | time | timeHi | clock | clockHi | tagmap | tagmapHi | resume | vesper | claims
  deriving DecidableEq, Repr

/-- An operand field after decoding (R171, R172); an IMM32 carries its value. -/
inductive Operand where
  | v (n : Fin 256)
  | s (n : Fin 128)
  | sp (r : SReg)
  | imm (b : BitVec 8)
  | p (n : Fin 8)
  | f (n : Fin 8)
  | g (n : Fin 8)
  | c (n : Fin 16)
  | t (n : Fin 32)
  | bar (level : Fin 4) (index : Fin 8)
  | imm32 (w : Word)
  | zero
  deriving DecidableEq, Repr

/-- The TYPE codes of R175; `dflt` is code 0. -/
inductive Ty where
  | dflt | s8 | s16 | s32 | s64 | n8 | n16 | n32 | n64 | f32 | f16 | bf16 | e4m3 | e5m2 | e2m1 | dsw8 | dsw4 | a128
  deriving DecidableEq, Repr

/-- The SPACE codes of R174. -/
inductive Space where
  | g | sp | csp | pv | k
  deriving DecidableEq, Repr

/-- The ORDER codes of R174. -/
inductive Order where
  | rlx | acq | rel | ar
  deriving DecidableEq, Repr

/-- The SCOPE codes of R174, in code order. -/
inductive Scope where
  | bk | wv | cl | sd | gd | sy
  deriving DecidableEq, Repr

/-- What an instruction word carries besides its opcode. -/
structure Fields where
  /-- GN: the guard is negated (R15). -/
  gn : Bool
  /-- GP: the guard predicate (R15). -/
  gp : Fin 8
  d : Operand
  a : Operand
  b : Operand
  c : Operand
  ty : Ty
  space : Space
  order : Order
  scope : Scope
  opt : BitVec 9
  /-- The empty-policy bits of A, B and C (R176). -/
  ea : Bool
  eb : Bool
  ec : Bool
  stall : BitVec 4
  yld : Bool
  reuse : BitVec 2
  deriving DecidableEq, Repr

/-- Where the dispatcher puts one block (R23, R355): cluster, core within it, and per wave a slice of the cluster and
a wave slot of the core. The choice is the dispatcher's, so it is an argument of the admission. -/
structure Place where
  cluster : Nat
  core : Nat
  slices : List Nat
  slots : List Nat
  deriving DecidableEq, Repr

/-- What was measured of one partition over a period: HBM tokens moved and mean watts (R354, R359). -/
structure Measure where
  part : Nat
  tokens : Nat
  watts : Nat
  deriving DecidableEq, Repr

/-- A pair of public keys. A number stands for a key's hash; those in the ROM are (0, 0) (R404; log 9). -/
structure Keys where
  ecdsa : Nat
  lms : Nat
  deriving DecidableEq, Repr

/-- The signatures under an image or record: the keys they name, whether each verifies, and the security version of an image (R402,
R404). -/
structure Signed where
  keys : Keys
  ecdsaOk : Bool
  lmsOk : Bool
  version : Nat
  deriving DecidableEq, Repr

/-- The fixed words of a record's layout as they stand: MAGIC, VER and LEN (R402). -/
structure RecordForm where
  magic : Nat
  version : Nat
  len : Nat
  deriving DecidableEq, Repr

/-- A base image record, KIND 7: COUNTER, its layout and the image's signatures (R402, R404). -/
structure BaseInput where
  counter : Nat
  signed : Signed
  form : RecordForm
  deriving DecidableEq, Repr

/-- An identity record, KIND 1: COUNTER, the key generation, the device and its signatures (R402, R403). -/
structure IdentityInput where
  counter : Nat
  generation : Nat
  device : Nat
  signed : Signed
  form : RecordForm
  deriving DecidableEq, Repr

/-- A KIND 3 record beside its COUNTER and signatures: the module that it names and the lease authority's keys (R402, R405). -/
structure EnrolInput where
  device : Nat
  keys : Keys
  form : RecordForm
  deriving DecidableEq, Repr

/-- A KIND 4 record beside its COUNTER and signatures: the lease's identifier and the customer's keys (R402, R405). -/
structure LeaseInput where
  id : Nat
  keys : Keys
  form : RecordForm
  deriving DecidableEq, Repr

/-- A resume that the host requests after a module power loss: the partition, and launch constants that it has restored, by grid (R132,
R393). -/
structure ResumeInput where
  part : Nat
  constants : List (Nat × List Byte)
  deriving DecidableEq, Repr

/-- The physical addresses from `base`, `len` of them, lie on the module with a node identifier (R410; log 71). -/
structure Aperture where
  base : Nat
  len : Nat
  node : Nat
  deriving DecidableEq, Repr

/-- What Matins meets at a power-on (R402, R404, R410, R411): how far it runs, the ROM self-test, an identity record and a base image
record put before it, the runtime image and a patch table, and the identifier, routes and apertures of the base image's configuration. -/
structure BootInput where
  upTo : Nat
  romOk : Bool
  identity : Option IdentityInput
  runtime : Option Signed
  base : Option BaseInput
  patch : Option Signed
  nodeId : Nat
  routes : List (Nat × Nat)
  apertures : List Aperture
  deriving DecidableEq, Repr

/-- What an attached debugger asks for (R214, R358). -/
inductive DebugRequest where
  | attach
  | detach
  | stop (w : Nat)
  | resume (w : Nat)
  | read (w : Nat)
  deriving DecidableEq, Repr

/-- The instructions that have an encoding, one for each (MAJOR, MINOR) of R179 that the table lists; ACQ, FREE and
CLMQ carry their kind code and WAITCNT its class code beside them. -/
inductive Op where
  | nop | mov | movsr | iadd | isub | imul | imulh | imad | imnxMin | imnxMax | iabnAbs | iabnNeg | iadd64
  | isub64 | lea | logAnd | logOr | logXor | logAndn | tern | not | shShl | shShr | shSar | shRot | dshr | bfx
  | bfi | popc | clz | brev | bytx | icmp | icmp64 | fcmp | plopAnd | plopOr | plopXor | plopAndn | sel | pmov
  | fclass | bra | brx | call | callx | ret | exit | yield | trap | bpt | fadd | fsub | fmul | ffma | fmnxMin
  | fmnxMax | pkadd | pkmul | pkfma | frcp | frsq | fsqrt | fexp2 | flog2 | fsin | fcos | cvt | cvtf | qblk
  | dqblk | lxchIdx | lxchBack | lxchFwd | lxchXor | lxchRot | paggAny | paggAll | paggSame | paggNone | ballot
  | eqmaskMask | eqmaskLead | lfoldAdd | lfoldMin | lfoldMax | lfoldAnd | lfoldOr | lfoldXor | lfoldCnt | reord
  | ld | st | ldw | pref | cpl | ptest | pclr | atomAdd | atomMin | atomMax | atomAnd | atomOr | atomXor
  | atomExch | cas | redAdd | redMin | redMax | redAnd | redOr | redXor | fence | range | pfenceTile | pfenceMod
  | waitcnt | cpt | cpm | twaitAny | twaitAll | tfind | tchkTest | tchkWait | tfree | mxa | mxq | aclr | acvt
  | acst | acld | bara | barw | bars | barq | gate | openGate | acq | acqW | free | clmq | chsend | chrecv
  | chpoll | chclose | tspawn | wdq | time | movcr | movrc | eret | shdw | tlbi | halt
  deriving DecidableEq, Repr

/-- One constructor for each row of the opcode table. The first group are instruction words; their fields are in
`Fields`, and `acq`, `acqW`, `free`, `clmq` and `waitcnt` carry the kind or class code of their MINOR. The second group
are the events of the machine: what an engine, the front end, the control core or the world outside does in one step. -/
inductive Instr where
  | nop (x : Fields)
  | mov (x : Fields)
  | movsr (x : Fields)
  | iadd (x : Fields)
  | isub (x : Fields)
  | imul (x : Fields)
  | imulh (x : Fields)
  | imad (x : Fields)
  | imnxMin (x : Fields)
  | imnxMax (x : Fields)
  | iabnAbs (x : Fields)
  | iabnNeg (x : Fields)
  | iadd64 (x : Fields)
  | isub64 (x : Fields)
  | lea (x : Fields)
  | logAnd (x : Fields)
  | logOr (x : Fields)
  | logXor (x : Fields)
  | logAndn (x : Fields)
  | tern (x : Fields)
  | not (x : Fields)
  | shShl (x : Fields)
  | shShr (x : Fields)
  | shSar (x : Fields)
  | shRot (x : Fields)
  | dshr (x : Fields)
  | bfx (x : Fields)
  | bfi (x : Fields)
  | popc (x : Fields)
  | clz (x : Fields)
  | brev (x : Fields)
  | bytx (x : Fields)
  | icmp (cond : Fin 10) (x : Fields)
  | icmp64 (cond : Fin 10) (x : Fields)
  | fcmp (cond : Fin 14) (x : Fields)
  | plopAnd (x : Fields)
  | plopOr (x : Fields)
  | plopXor (x : Fields)
  | plopAndn (x : Fields)
  | sel (x : Fields)
  | pmov (x : Fields)
  | fclass (x : Fields)
  | bra (x : Fields)
  | brx (x : Fields)
  | call (x : Fields)
  | callx (x : Fields)
  | ret (x : Fields)
  | exit (x : Fields)
  | yield (x : Fields)
  | trap (x : Fields)
  | bpt (x : Fields)
  | fadd (x : Fields)
  | fsub (x : Fields)
  | fmul (x : Fields)
  | ffma (x : Fields)
  | fmnxMin (x : Fields)
  | fmnxMax (x : Fields)
  | pkadd (x : Fields)
  | pkmul (x : Fields)
  | pkfma (x : Fields)
  | frcp (x : Fields)
  | frsq (x : Fields)
  | fsqrt (x : Fields)
  | fexp2 (x : Fields)
  | flog2 (x : Fields)
  | fsin (x : Fields)
  | fcos (x : Fields)
  | cvt (x : Fields)
  | cvtf (x : Fields)
  | qblk (x : Fields)
  | dqblk (x : Fields)
  | lxchIdx (x : Fields)
  | lxchBack (x : Fields)
  | lxchFwd (x : Fields)
  | lxchXor (x : Fields)
  | lxchRot (x : Fields)
  | paggAny (x : Fields)
  | paggAll (x : Fields)
  | paggSame (x : Fields)
  | paggNone (x : Fields)
  | ballot (x : Fields)
  | eqmaskMask (x : Fields)
  | eqmaskLead (x : Fields)
  | lfoldAdd (x : Fields)
  | lfoldMin (x : Fields)
  | lfoldMax (x : Fields)
  | lfoldAnd (x : Fields)
  | lfoldOr (x : Fields)
  | lfoldXor (x : Fields)
  | lfoldCnt (x : Fields)
  | reord (x : Fields)
  | ld (x : Fields)
  | st (x : Fields)
  | ldw (x : Fields)
  | pref (x : Fields)
  | cpl (x : Fields)
  | ptest (x : Fields)
  | pclr (x : Fields)
  | atomAdd (x : Fields)
  | atomMin (x : Fields)
  | atomMax (x : Fields)
  | atomAnd (x : Fields)
  | atomOr (x : Fields)
  | atomXor (x : Fields)
  | atomExch (x : Fields)
  | cas (x : Fields)
  | redAdd (x : Fields)
  | redMin (x : Fields)
  | redMax (x : Fields)
  | redAnd (x : Fields)
  | redOr (x : Fields)
  | redXor (x : Fields)
  | fence (x : Fields)
  | range (x : Fields)
  | pfenceTile (x : Fields)
  | pfenceMod (x : Fields)
  | waitcnt (cls : Fin 6) (x : Fields)
  | cpt (x : Fields)
  | cpm (x : Fields)
  | twaitAny (x : Fields)
  | twaitAll (x : Fields)
  | tfind (x : Fields)
  | tchkTest (x : Fields)
  | tchkWait (x : Fields)
  | tfree (x : Fields)
  | mxa (x : Fields)
  | mxq (x : Fields)
  | aclr (x : Fields)
  | acvt (x : Fields)
  | acst (x : Fields)
  | acld (x : Fields)
  | bara (x : Fields)
  | barw (x : Fields)
  | bars (x : Fields)
  | barq (x : Fields)
  | gate (x : Fields)
  | openGate (x : Fields)
  | acq (kind : Fin 6) (x : Fields)
  | acqW (kind : Fin 6) (x : Fields)
  | free (kind : Fin 6) (x : Fields)
  | clmq (kind : Fin 6) (x : Fields)
  | chsend (x : Fields)
  | chrecv (x : Fields)
  | chpoll (x : Fields)
  | chclose (x : Fields)
  | tspawn (x : Fields)
  | wdq (x : Fields)
  | time (x : Fields)
  | movcr (x : Fields)
  | movrc (x : Fields)
  | eret (x : Fields)
  | shdw (x : Fields)
  | tlbi (x : Fields)
  | halt (x : Fields)
  | reordRegroup (blk : Nat)
  | taskGatherTimeout (grid entry : Nat)
  | waveRetire (w : Nat)
  | gckRequestTest (cl : Nat)
  | gckScan (cl : Nat)
  | admitUnit (p grid : Nat) (task : Bool) (places : List Place)
  | loadDataReturn (w op : Nat) (mask : BitVec 32)
  | atomicReplyReturn (w op : Nat) (mask : BitVec 32)
  | serviceWarpPerform (req : Nat)
  | l1Eviction (core line : Nat)
  | homeWriteBack (core sector : Nat)
  | promotionFlush (core sector : Nat)
  | copyChunkWrite (copy chunk : Nat)
  | cpmDelivery (copy rcv chunk : Nat)
  | cplCopyComplete (w op : Nat)
  | wdqAnswer (copy : Nat)
  | mxaStep (blk ctx : Nat) (residue : Bool)
  | chrecvMessageTaken (w op : Nat)
  | vesperWindowStart (p : Nat)
  | vesperWindowEnd (p : Nat)
  | timeDeadlineReached (w : Nat)
  | yieldExpire (w : Nat)
  | stallExpire (w : Nat)
  | faultReplay (die idx : Nat)
  | faultCancel (die idx : Nat)
  | ccTlbi (p addr n : Nat)
  | shadowWriteBehind (cl kib : Nat)
  | imageClose (cl : Nat)
  | tilePowerLoss (cl : Nat) (torn : Bool)
  | modulePowerLoss (torn : List Nat)
  | dawnResume (cl core : Nat)
  | moduleResumeRequest (r : ResumeInput)
  | tlastWrite (p : Nat)
  | preempt (p : Nat)
  | preemptResume (p : Nat)
  | partitionCreate (p start domains wssz arena : Nat)
  | partitionDestroy (p : Nat)
  | serviceReload (image : Nat) (signed : Signed)
  | serviceStoreSwap (cl : Nat)
  | doorbellWrite (p slot : Nat) (wridx : Word)
  | qcbCommit (p slot : Nat) (cfg : List Word)
  | ccWatchdogExpire
  | nopPacket (p slot : Nat)
  | launchPacket (p slot : Nat)
  | graphPacket (p slot : Nat)
  | tasksPacket (p slot : Nat)
  | copyPacket (p slot : Nat)
  | wsloadPacket (p slot : Nat)
  | condPacket (p slot : Nat)
  | condReevaluate (p slot : Nat)
  | tlwaitPacket (p slot : Nat)
  | tlsigPacket (p slot : Nat)
  | fencePacket (p slot : Nat)
  | markPacket (p slot : Nat)
  | budgetPeriodBoundary (use : List Measure)
  | patrolScrub (die : Nat) (units : List Nat)
  | rblWrite (cl value : Nat)
  | gckLimitWrite (cl kind value : Nat)
  | vtgtWrite (cl rid mv : Nat)
  | voltageRequestFinish (cl : Nat)
  | noonTick (pmod : Nat) (use : List Measure)
  | thermalStepChange (die temp : Nat)
  | sliceGate (cl slice : Nat)
  | sliceWake (cl slice : Nat)
  | ptpMessage (offs : Int)
  | errorCountClear (mask : Word)
  | flitCrcRetry (port : Nat) (good : Bool)
  | herrumLaneFail (port : Nat)
  | hbmChannelSpare (domain : Nat)
  | edramBankSpare (die bank : Nat)
  | sparingMapUpdate (parts : List Nat) (torn : Bool)
  | powerOn (boot : BootInput)
  | leaseAuthorityEnrol (counter : Nat) (e : EnrolInput) (signed : Signed)
  | leaseStart (counter : Nat) (l : LeaseInput) (signed : Signed)
  | leaseEnd (lease : Nat) (nonce : BitVec 128) (signed : Signed)
  | recoveryResetDvsec (value : Word)
  | recoveryResetPin (lowNs : Nat)
  | functionLevelReset
  | registerWrite (addr : Nat) (value : Word)
  | storeComplete (w op : Nat)
  | debuggerAccess (p : Nat) (req : DebugRequest)
  | laneRetrainComplete (port : Nat)
  deriving DecidableEq, Repr

/-- The opcode of an instruction word; an event has none. -/
def Instr.op : Instr → Option Op
  | .nop _ => some .nop
  | .mov _ => some .mov
  | .movsr _ => some .movsr
  | .iadd _ => some .iadd
  | .isub _ => some .isub
  | .imul _ => some .imul
  | .imulh _ => some .imulh
  | .imad _ => some .imad
  | .imnxMin _ => some .imnxMin
  | .imnxMax _ => some .imnxMax
  | .iabnAbs _ => some .iabnAbs
  | .iabnNeg _ => some .iabnNeg
  | .iadd64 _ => some .iadd64
  | .isub64 _ => some .isub64
  | .lea _ => some .lea
  | .logAnd _ => some .logAnd
  | .logOr _ => some .logOr
  | .logXor _ => some .logXor
  | .logAndn _ => some .logAndn
  | .tern _ => some .tern
  | .not _ => some .not
  | .shShl _ => some .shShl
  | .shShr _ => some .shShr
  | .shSar _ => some .shSar
  | .shRot _ => some .shRot
  | .dshr _ => some .dshr
  | .bfx _ => some .bfx
  | .bfi _ => some .bfi
  | .popc _ => some .popc
  | .clz _ => some .clz
  | .brev _ => some .brev
  | .bytx _ => some .bytx
  | .icmp _ _ => some .icmp
  | .icmp64 _ _ => some .icmp64
  | .fcmp _ _ => some .fcmp
  | .plopAnd _ => some .plopAnd
  | .plopOr _ => some .plopOr
  | .plopXor _ => some .plopXor
  | .plopAndn _ => some .plopAndn
  | .sel _ => some .sel
  | .pmov _ => some .pmov
  | .fclass _ => some .fclass
  | .bra _ => some .bra
  | .brx _ => some .brx
  | .call _ => some .call
  | .callx _ => some .callx
  | .ret _ => some .ret
  | .exit _ => some .exit
  | .yield _ => some .yield
  | .trap _ => some .trap
  | .bpt _ => some .bpt
  | .fadd _ => some .fadd
  | .fsub _ => some .fsub
  | .fmul _ => some .fmul
  | .ffma _ => some .ffma
  | .fmnxMin _ => some .fmnxMin
  | .fmnxMax _ => some .fmnxMax
  | .pkadd _ => some .pkadd
  | .pkmul _ => some .pkmul
  | .pkfma _ => some .pkfma
  | .frcp _ => some .frcp
  | .frsq _ => some .frsq
  | .fsqrt _ => some .fsqrt
  | .fexp2 _ => some .fexp2
  | .flog2 _ => some .flog2
  | .fsin _ => some .fsin
  | .fcos _ => some .fcos
  | .cvt _ => some .cvt
  | .cvtf _ => some .cvtf
  | .qblk _ => some .qblk
  | .dqblk _ => some .dqblk
  | .lxchIdx _ => some .lxchIdx
  | .lxchBack _ => some .lxchBack
  | .lxchFwd _ => some .lxchFwd
  | .lxchXor _ => some .lxchXor
  | .lxchRot _ => some .lxchRot
  | .paggAny _ => some .paggAny
  | .paggAll _ => some .paggAll
  | .paggSame _ => some .paggSame
  | .paggNone _ => some .paggNone
  | .ballot _ => some .ballot
  | .eqmaskMask _ => some .eqmaskMask
  | .eqmaskLead _ => some .eqmaskLead
  | .lfoldAdd _ => some .lfoldAdd
  | .lfoldMin _ => some .lfoldMin
  | .lfoldMax _ => some .lfoldMax
  | .lfoldAnd _ => some .lfoldAnd
  | .lfoldOr _ => some .lfoldOr
  | .lfoldXor _ => some .lfoldXor
  | .lfoldCnt _ => some .lfoldCnt
  | .reord _ => some .reord
  | .ld _ => some .ld
  | .st _ => some .st
  | .ldw _ => some .ldw
  | .pref _ => some .pref
  | .cpl _ => some .cpl
  | .ptest _ => some .ptest
  | .pclr _ => some .pclr
  | .atomAdd _ => some .atomAdd
  | .atomMin _ => some .atomMin
  | .atomMax _ => some .atomMax
  | .atomAnd _ => some .atomAnd
  | .atomOr _ => some .atomOr
  | .atomXor _ => some .atomXor
  | .atomExch _ => some .atomExch
  | .cas _ => some .cas
  | .redAdd _ => some .redAdd
  | .redMin _ => some .redMin
  | .redMax _ => some .redMax
  | .redAnd _ => some .redAnd
  | .redOr _ => some .redOr
  | .redXor _ => some .redXor
  | .fence _ => some .fence
  | .range _ => some .range
  | .pfenceTile _ => some .pfenceTile
  | .pfenceMod _ => some .pfenceMod
  | .waitcnt _ _ => some .waitcnt
  | .cpt _ => some .cpt
  | .cpm _ => some .cpm
  | .twaitAny _ => some .twaitAny
  | .twaitAll _ => some .twaitAll
  | .tfind _ => some .tfind
  | .tchkTest _ => some .tchkTest
  | .tchkWait _ => some .tchkWait
  | .tfree _ => some .tfree
  | .mxa _ => some .mxa
  | .mxq _ => some .mxq
  | .aclr _ => some .aclr
  | .acvt _ => some .acvt
  | .acst _ => some .acst
  | .acld _ => some .acld
  | .bara _ => some .bara
  | .barw _ => some .barw
  | .bars _ => some .bars
  | .barq _ => some .barq
  | .gate _ => some .gate
  | .openGate _ => some .openGate
  | .acq _ _ => some .acq
  | .acqW _ _ => some .acqW
  | .free _ _ => some .free
  | .clmq _ _ => some .clmq
  | .chsend _ => some .chsend
  | .chrecv _ => some .chrecv
  | .chpoll _ => some .chpoll
  | .chclose _ => some .chclose
  | .tspawn _ => some .tspawn
  | .wdq _ => some .wdq
  | .time _ => some .time
  | .movcr _ => some .movcr
  | .movrc _ => some .movrc
  | .eret _ => some .eret
  | .shdw _ => some .shdw
  | .tlbi _ => some .tlbi
  | .halt _ => some .halt
  | .reordRegroup .. => none
  | .taskGatherTimeout .. => none
  | .waveRetire .. => none
  | .gckRequestTest .. => none
  | .gckScan .. => none
  | .admitUnit .. => none
  | .loadDataReturn .. => none
  | .atomicReplyReturn .. => none
  | .serviceWarpPerform .. => none
  | .l1Eviction .. => none
  | .homeWriteBack .. => none
  | .promotionFlush .. => none
  | .copyChunkWrite .. => none
  | .cpmDelivery .. => none
  | .cplCopyComplete .. => none
  | .wdqAnswer .. => none
  | .mxaStep .. => none
  | .chrecvMessageTaken .. => none
  | .vesperWindowStart .. => none
  | .vesperWindowEnd .. => none
  | .timeDeadlineReached .. => none
  | .yieldExpire .. => none
  | .stallExpire .. => none
  | .faultReplay .. => none
  | .faultCancel .. => none
  | .ccTlbi .. => none
  | .shadowWriteBehind .. => none
  | .imageClose .. => none
  | .tilePowerLoss .. => none
  | .modulePowerLoss .. => none
  | .dawnResume .. => none
  | .moduleResumeRequest .. => none
  | .tlastWrite .. => none
  | .preempt .. => none
  | .preemptResume .. => none
  | .partitionCreate .. => none
  | .partitionDestroy .. => none
  | .serviceReload .. => none
  | .serviceStoreSwap .. => none
  | .doorbellWrite .. => none
  | .qcbCommit .. => none
  | .ccWatchdogExpire => none
  | .nopPacket .. => none
  | .launchPacket .. => none
  | .graphPacket .. => none
  | .tasksPacket .. => none
  | .copyPacket .. => none
  | .wsloadPacket .. => none
  | .condPacket .. => none
  | .condReevaluate .. => none
  | .tlwaitPacket .. => none
  | .tlsigPacket .. => none
  | .fencePacket .. => none
  | .markPacket .. => none
  | .budgetPeriodBoundary .. => none
  | .patrolScrub .. => none
  | .rblWrite .. => none
  | .gckLimitWrite .. => none
  | .vtgtWrite .. => none
  | .voltageRequestFinish .. => none
  | .noonTick .. => none
  | .thermalStepChange .. => none
  | .sliceGate .. => none
  | .sliceWake .. => none
  | .ptpMessage .. => none
  | .errorCountClear .. => none
  | .flitCrcRetry .. => none
  | .herrumLaneFail .. => none
  | .hbmChannelSpare .. => none
  | .edramBankSpare .. => none
  | .sparingMapUpdate .. => none
  | .powerOn .. => none
  | .leaseAuthorityEnrol .. => none
  | .leaseStart .. => none
  | .leaseEnd .. => none
  | .recoveryResetDvsec .. => none
  | .recoveryResetPin .. => none
  | .functionLevelReset => none
  | .registerWrite .. => none
  | .storeComplete .. => none
  | .debuggerAccess .. => none
  | .laneRetrainComplete .. => none

/-- The fields of an instruction word; an event has none. -/
def Instr.fields : Instr → Option Fields
  | .nop x => some x
  | .mov x => some x
  | .movsr x => some x
  | .iadd x => some x
  | .isub x => some x
  | .imul x => some x
  | .imulh x => some x
  | .imad x => some x
  | .imnxMin x => some x
  | .imnxMax x => some x
  | .iabnAbs x => some x
  | .iabnNeg x => some x
  | .iadd64 x => some x
  | .isub64 x => some x
  | .lea x => some x
  | .logAnd x => some x
  | .logOr x => some x
  | .logXor x => some x
  | .logAndn x => some x
  | .tern x => some x
  | .not x => some x
  | .shShl x => some x
  | .shShr x => some x
  | .shSar x => some x
  | .shRot x => some x
  | .dshr x => some x
  | .bfx x => some x
  | .bfi x => some x
  | .popc x => some x
  | .clz x => some x
  | .brev x => some x
  | .bytx x => some x
  | .icmp _ x => some x
  | .icmp64 _ x => some x
  | .fcmp _ x => some x
  | .plopAnd x => some x
  | .plopOr x => some x
  | .plopXor x => some x
  | .plopAndn x => some x
  | .sel x => some x
  | .pmov x => some x
  | .fclass x => some x
  | .bra x => some x
  | .brx x => some x
  | .call x => some x
  | .callx x => some x
  | .ret x => some x
  | .exit x => some x
  | .yield x => some x
  | .trap x => some x
  | .bpt x => some x
  | .fadd x => some x
  | .fsub x => some x
  | .fmul x => some x
  | .ffma x => some x
  | .fmnxMin x => some x
  | .fmnxMax x => some x
  | .pkadd x => some x
  | .pkmul x => some x
  | .pkfma x => some x
  | .frcp x => some x
  | .frsq x => some x
  | .fsqrt x => some x
  | .fexp2 x => some x
  | .flog2 x => some x
  | .fsin x => some x
  | .fcos x => some x
  | .cvt x => some x
  | .cvtf x => some x
  | .qblk x => some x
  | .dqblk x => some x
  | .lxchIdx x => some x
  | .lxchBack x => some x
  | .lxchFwd x => some x
  | .lxchXor x => some x
  | .lxchRot x => some x
  | .paggAny x => some x
  | .paggAll x => some x
  | .paggSame x => some x
  | .paggNone x => some x
  | .ballot x => some x
  | .eqmaskMask x => some x
  | .eqmaskLead x => some x
  | .lfoldAdd x => some x
  | .lfoldMin x => some x
  | .lfoldMax x => some x
  | .lfoldAnd x => some x
  | .lfoldOr x => some x
  | .lfoldXor x => some x
  | .lfoldCnt x => some x
  | .reord x => some x
  | .ld x => some x
  | .st x => some x
  | .ldw x => some x
  | .pref x => some x
  | .cpl x => some x
  | .ptest x => some x
  | .pclr x => some x
  | .atomAdd x => some x
  | .atomMin x => some x
  | .atomMax x => some x
  | .atomAnd x => some x
  | .atomOr x => some x
  | .atomXor x => some x
  | .atomExch x => some x
  | .cas x => some x
  | .redAdd x => some x
  | .redMin x => some x
  | .redMax x => some x
  | .redAnd x => some x
  | .redOr x => some x
  | .redXor x => some x
  | .fence x => some x
  | .range x => some x
  | .pfenceTile x => some x
  | .pfenceMod x => some x
  | .waitcnt _ x => some x
  | .cpt x => some x
  | .cpm x => some x
  | .twaitAny x => some x
  | .twaitAll x => some x
  | .tfind x => some x
  | .tchkTest x => some x
  | .tchkWait x => some x
  | .tfree x => some x
  | .mxa x => some x
  | .mxq x => some x
  | .aclr x => some x
  | .acvt x => some x
  | .acst x => some x
  | .acld x => some x
  | .bara x => some x
  | .barw x => some x
  | .bars x => some x
  | .barq x => some x
  | .gate x => some x
  | .openGate x => some x
  | .acq _ x => some x
  | .acqW _ x => some x
  | .free _ x => some x
  | .clmq _ x => some x
  | .chsend x => some x
  | .chrecv x => some x
  | .chpoll x => some x
  | .chclose x => some x
  | .tspawn x => some x
  | .wdq x => some x
  | .time x => some x
  | .movcr x => some x
  | .movrc x => some x
  | .eret x => some x
  | .shdw x => some x
  | .tlbi x => some x
  | .halt x => some x
  | .reordRegroup .. => none
  | .taskGatherTimeout .. => none
  | .waveRetire .. => none
  | .gckRequestTest .. => none
  | .gckScan .. => none
  | .admitUnit .. => none
  | .loadDataReturn .. => none
  | .atomicReplyReturn .. => none
  | .serviceWarpPerform .. => none
  | .l1Eviction .. => none
  | .homeWriteBack .. => none
  | .promotionFlush .. => none
  | .copyChunkWrite .. => none
  | .cpmDelivery .. => none
  | .cplCopyComplete .. => none
  | .wdqAnswer .. => none
  | .mxaStep .. => none
  | .chrecvMessageTaken .. => none
  | .vesperWindowStart .. => none
  | .vesperWindowEnd .. => none
  | .timeDeadlineReached .. => none
  | .yieldExpire .. => none
  | .stallExpire .. => none
  | .faultReplay .. => none
  | .faultCancel .. => none
  | .ccTlbi .. => none
  | .shadowWriteBehind .. => none
  | .imageClose .. => none
  | .tilePowerLoss .. => none
  | .modulePowerLoss .. => none
  | .dawnResume .. => none
  | .moduleResumeRequest .. => none
  | .tlastWrite .. => none
  | .preempt .. => none
  | .preemptResume .. => none
  | .partitionCreate .. => none
  | .partitionDestroy .. => none
  | .serviceReload .. => none
  | .serviceStoreSwap .. => none
  | .doorbellWrite .. => none
  | .qcbCommit .. => none
  | .ccWatchdogExpire => none
  | .nopPacket .. => none
  | .launchPacket .. => none
  | .graphPacket .. => none
  | .tasksPacket .. => none
  | .copyPacket .. => none
  | .wsloadPacket .. => none
  | .condPacket .. => none
  | .condReevaluate .. => none
  | .tlwaitPacket .. => none
  | .tlsigPacket .. => none
  | .fencePacket .. => none
  | .markPacket .. => none
  | .budgetPeriodBoundary .. => none
  | .patrolScrub .. => none
  | .rblWrite .. => none
  | .gckLimitWrite .. => none
  | .vtgtWrite .. => none
  | .voltageRequestFinish .. => none
  | .noonTick .. => none
  | .thermalStepChange .. => none
  | .sliceGate .. => none
  | .sliceWake .. => none
  | .ptpMessage .. => none
  | .errorCountClear .. => none
  | .flitCrcRetry .. => none
  | .herrumLaneFail .. => none
  | .hbmChannelSpare .. => none
  | .edramBankSpare .. => none
  | .sparingMapUpdate .. => none
  | .powerOn .. => none
  | .leaseAuthorityEnrol .. => none
  | .leaseStart .. => none
  | .leaseEnd .. => none
  | .recoveryResetDvsec .. => none
  | .recoveryResetPin .. => none
  | .functionLevelReset => none
  | .registerWrite .. => none
  | .storeComplete .. => none
  | .debuggerAccess .. => none
  | .laneRetrainComplete .. => none

/-- An event of the machine: no instruction word encodes it. -/
def Instr.isEvent (i : Instr) : Bool := i.op.isNone

end Sys2Proof
end

