-- ==== Sys2Proof/WellFormed.lean ====
section
/-! DEFINITION. What any instruction word can carry at all, whatever its opcode: no reserved operand value, IMM32 named at
most once, and no C operand or modifier beside an IMM32 (R171-R173). The form that each opcode asks for is checked in
Decode.lean, where `Instr.wf` joins the two. -/

namespace Sys2Proof

/-- An operand that an operand field can hold: only barrier level 00 has reserved indices (R172). -/
def Operand.wordForm : Operand → Bool
  | .bar level index => level != 0 || index == 0
  | _ => true

/-- The operand selects IMM32. -/
def Operand.isImm32 : Operand → Bool
  | .imm32 _ => true
  | _ => false

/-- How many of D, A and B select IMM32. -/
def Fields.imm32Count (x : Fields) : Nat :=
  x.d.isImm32.toNat + x.a.isImm32.toNat + x.b.isImm32.toNat

/-- The modifier fields are all zero. -/
def Fields.noModifiers (x : Fields) : Bool :=
  x.ty == .dflt && x.space == .g && x.order == .rlx && x.scope == .bk && x.opt == 0

/-- What any word can carry (R171-R173). -/
def Fields.wordForm (x : Fields) : Bool :=
  x.d.wordForm && x.a.wordForm && x.b.wordForm && x.c.wordForm && ! x.c.isImm32
    && (x.imm32Count == 0 || x.imm32Count == 1 && x.c == .zero && x.noModifiers)

end Sys2Proof
end

