-- ==== Sys2Proof/Decode.lean ====
section
/-! DEFINITION. The decoder: total on any bytes, refusing by the subcode of R181; the forms of the operand tables (R180,
R183-R233, R258, R275, R285, R381); and the encoder, written from the same tables (R169-R175). -/

namespace Sys2Proof

/-! ### Operand fields -/

/-- The special register of a number (R75). -/
def sregOf (n : Nat) : Option SReg :=
  match n with
  | 0x00 => some .laneid | 0x01 => some .waveid
  | 0x02 => some .blockidX | 0x03 => some .blockidY | 0x04 => some .blockidZ
  | 0x05 => some .clusterid | 0x06 => some .sdid
  | 0x07 => some .griddimX | 0x08 => some .griddimY | 0x09 => some .griddimZ
  | 0x0A => some .taskid | 0x0B => some .lanemask
  | 0x0C => some .time | 0x0D => some .timeHi | 0x0E => some .clock | 0x0F => some .clockHi
  | 0x10 => some .tagmap | 0x11 => some .tagmapHi
  | 0x12 => some .resume | 0x13 => some .vesper | 0x14 => some .claims
  | _ => none

/-- The number of a special register (R75). -/
def sregNum : SReg → Nat
  | .laneid => 0x00 | .waveid => 0x01 | .blockidX => 0x02 | .blockidY => 0x03 | .blockidZ => 0x04
  | .clusterid => 0x05 | .sdid => 0x06 | .griddimX => 0x07 | .griddimY => 0x08 | .griddimZ => 0x09
  | .taskid => 0x0A | .lanemask => 0x0B | .time => 0x0C | .timeHi => 0x0D | .clock => 0x0E | .clockHi => 0x0F
  | .tagmap => 0x10 | .tagmapHi => 0x11 | .resume => 0x12 | .vesper => 0x13 | .claims => 0x14

/-- The subclasses under class 11 (R172). -/
def subclassOf (sub n : Nat) : Option Operand :=
  match sub with
  | 0 => if h : n < 8 then some (.p ⟨n, h⟩) else none
  | 1 => if h : n < 8 then some (.f ⟨n, h⟩) else none
  | 2 => if h : n < 8 then some (.g ⟨n, h⟩) else none
  | 3 => if h : n < 16 then some (.c ⟨n, h⟩) else none
  | 4 => if h : n < 32 then some (.t ⟨n, h⟩) else none
  | 5 => if h : n / 8 < 4 then
           let o := Operand.bar ⟨n / 8, h⟩ ⟨n % 8, Nat.mod_lt _ (by decide)⟩
           if o.wordForm then some o else none
         else none
  | 6 => if n = 0 then some (.imm32 0) else none
  | 7 => if n = 0 then some .zero else none
  | _ => none

/-- A 10-bit operand field (R171); an IMM32 is given its value afterwards. A reserved value gives none. -/
def operandOf (f : BitVec 10) : Option Operand :=
  let n := f.toNat % 256
  match f.toNat / 256 with
  | 0 => some (.v ⟨n, Nat.mod_lt _ (by decide)⟩)
  | 1 => if h : n < 128 then some (.s ⟨n, h⟩) else (sregOf (n - 128)).map .sp
  | 2 => some (.imm (BitVec.ofNat 8 n))
  | _ => subclassOf (n / 32) (n % 32)

/-- The operand field of an operand (R12). -/
def operandField : Operand → BitVec 10
  | .v n => BitVec.ofNat 10 n
  | .s n => BitVec.ofNat 10 (0x100 + n)
  | .sp r => BitVec.ofNat 10 (0x180 + sregNum r)
  | .imm b => BitVec.ofNat 10 (0x200 + b.toNat)
  | .p n => BitVec.ofNat 10 (0x300 + n)
  | .f n => BitVec.ofNat 10 (0x320 + n)
  | .g n => BitVec.ofNat 10 (0x340 + n)
  | .c n => BitVec.ofNat 10 (0x360 + n)
  | .t n => BitVec.ofNat 10 (0x380 + n)
  | .bar l i => BitVec.ofNat 10 (0x3A0 + l * 8 + i)
  | .imm32 _ => 0x3C0#10
  | .zero => 0x3E0#10

/-- Give an operand that selects IMM32 its value. -/
def Operand.withImm (o : Operand) (x : Word) : Operand :=
  match o with
  | .imm32 _ => .imm32 x
  | o => o

/-- The IMM32 value that an operand carries. -/
def Operand.immValue : Operand → Option Word
  | .imm32 w => some w
  | _ => none

/-! ### Modifier codes -/

/-- TYPE codes (R175). -/
def tyOf (n : Nat) : Option Ty :=
  match n with
  | 0x00 => some .dflt | 0x01 => some .s8 | 0x02 => some .s16 | 0x03 => some .s32 | 0x04 => some .s64
  | 0x05 => some .n8 | 0x06 => some .n16 | 0x07 => some .n32 | 0x08 => some .n64 | 0x09 => some .f32
  | 0x0A => some .f16 | 0x0B => some .bf16 | 0x0C => some .e4m3 | 0x0D => some .e5m2 | 0x0E => some .e2m1
  | 0x0F => some .dsw8 | 0x10 => some .dsw4 | 0x11 => some .a128
  | _ => none

def tyNum : Ty → Nat
  | .dflt => 0x00 | .s8 => 0x01 | .s16 => 0x02 | .s32 => 0x03 | .s64 => 0x04
  | .n8 => 0x05 | .n16 => 0x06 | .n32 => 0x07 | .n64 => 0x08 | .f32 => 0x09
  | .f16 => 0x0A | .bf16 => 0x0B | .e4m3 => 0x0C | .e5m2 => 0x0D | .e2m1 => 0x0E
  | .dsw8 => 0x0F | .dsw4 => 0x10 | .a128 => 0x11

/-- SPACE codes (R174). -/
def spaceOf (n : Nat) : Option Space :=
  match n with
  | 0 => some .g | 1 => some .sp | 2 => some .csp | 3 => some .pv | 4 => some .k | _ => none

def spaceNum : Space → Nat
  | .g => 0 | .sp => 1 | .csp => 2 | .pv => 3 | .k => 4

/-- ORDER codes (R174). -/
def orderOf (n : Nat) : Option Order :=
  match n with
  | 0 => some .rlx | 1 => some .acq | 2 => some .rel | 3 => some .ar | _ => none

def orderNum : Order → Nat
  | .rlx => 0 | .acq => 1 | .rel => 2 | .ar => 3

/-- SCOPE codes (R174). -/
def scopeOf (n : Nat) : Option Scope :=
  match n with
  | 0 => some .bk | 1 => some .wv | 2 => some .cl | 3 => some .sd | 4 => some .gd | 5 => some .sy | _ => none

def scopeNum : Scope → Nat
  | .bk => 0 | .wv => 1 | .cl => 2 | .sd => 3 | .gd => 4 | .sy => 5

/-! ### The opcode map (R179) -/

/-- The instruction of a MAJOR and MINOR code, waiting for its fields; none where R179 assigns nothing. -/
def instrOf (major minor : Nat) : Option (Fields → Instr) :=
  let plain (i : Fields → Instr) := if minor = 0 then some i else none
  match major with
  | 0x00 => plain .nop | 0x01 => plain .mov | 0x02 => plain .movsr | 0x03 => plain .iadd | 0x04 => plain .isub
  | 0x05 => plain .imul | 0x06 => plain .imulh | 0x07 => plain .imad
  | 0x08 => match minor with | 0 => some .imnxMin | 1 => some .imnxMax | _ => none
  | 0x09 => match minor with | 0 => some .iabnAbs | 1 => some .iabnNeg | _ => none
  | 0x0A => plain .iadd64 | 0x0B => plain .isub64 | 0x0C => plain .lea
  | 0x0D => match minor with | 0 => some .logAnd | 1 => some .logOr | 2 => some .logXor | 3 => some .logAndn | _ => none
  | 0x0E => plain .tern | 0x0F => plain .not
  | 0x10 => match minor with | 0 => some .shShl | 1 => some .shShr | 2 => some .shSar | 3 => some .shRot | _ => none
  | 0x11 => plain .dshr | 0x12 => plain .bfx | 0x13 => plain .bfi | 0x14 => plain .popc | 0x15 => plain .clz
  | 0x16 => plain .brev | 0x17 => plain .bytx
  | 0x20 => if h : minor < 10 then some (.icmp ⟨minor, h⟩) else none
  | 0x21 => if h : minor < 10 then some (.icmp64 ⟨minor, h⟩) else none
  | 0x22 => if h : minor < 14 then some (.fcmp ⟨minor, h⟩) else none
  | 0x23 => match minor with | 0 => some .plopAnd | 1 => some .plopOr | 2 => some .plopXor | 3 => some .plopAndn | _ => none
  | 0x24 => plain .sel | 0x25 => plain .pmov | 0x26 => plain .fclass
  | 0x30 => plain .bra | 0x31 => plain .brx | 0x32 => plain .call | 0x33 => plain .callx | 0x34 => plain .ret
  | 0x35 => plain .exit | 0x36 => plain .yield | 0x37 => plain .trap | 0x38 => plain .bpt
  | 0x40 => plain .fadd | 0x41 => plain .fsub | 0x42 => plain .fmul | 0x43 => plain .ffma
  | 0x44 => match minor with | 0 => some .fmnxMin | 1 => some .fmnxMax | _ => none
  | 0x45 => plain .pkadd | 0x46 => plain .pkmul | 0x47 => plain .pkfma | 0x48 => plain .frcp | 0x49 => plain .frsq
  | 0x4A => plain .fsqrt | 0x4B => plain .fexp2 | 0x4C => plain .flog2 | 0x4D => plain .fsin | 0x4E => plain .fcos
  | 0x60 => plain .cvt | 0x61 => plain .cvtf | 0x62 => plain .qblk | 0x63 => plain .dqblk
  | 0x70 => match minor with
    | 0 => some .lxchIdx | 1 => some .lxchBack | 2 => some .lxchFwd | 3 => some .lxchXor | 4 => some .lxchRot | _ => none
  | 0x71 => match minor with | 0 => some .paggAny | 1 => some .paggAll | 2 => some .paggSame | 3 => some .paggNone | _ => none
  | 0x72 => plain .ballot
  | 0x73 => match minor with | 0 => some .eqmaskMask | 1 => some .eqmaskLead | _ => none
  | 0x74 => match minor with
    | 0 => some .lfoldAdd | 1 => some .lfoldMin | 2 => some .lfoldMax | 3 => some .lfoldAnd | 4 => some .lfoldOr
    | 5 => some .lfoldXor | 6 => some .lfoldCnt | _ => none
  | 0x75 => plain .reord
  | 0x80 => plain .ld | 0x81 => plain .st | 0x82 => plain .ldw | 0x83 => plain .pref | 0x84 => plain .cpl
  | 0x85 => plain .ptest | 0x86 => plain .pclr
  | 0xA0 => match minor with
    | 0 => some .atomAdd | 1 => some .atomMin | 2 => some .atomMax | 3 => some .atomAnd | 4 => some .atomOr
    | 5 => some .atomXor | 6 => some .atomExch | _ => none
  | 0xA1 => plain .cas
  | 0xA2 => match minor with
    | 0 => some .redAdd | 1 => some .redMin | 2 => some .redMax | 3 => some .redAnd | 4 => some .redOr
    | 5 => some .redXor | _ => none
  | 0xA3 => plain .fence | 0xA4 => plain .range
  | 0xA5 => match minor with | 0 => some .pfenceTile | 1 => some .pfenceMod | _ => none
  | 0xA6 => if h : minor < 6 then some (.waitcnt ⟨minor, h⟩) else none
  | 0xB0 => plain .cpt | 0xB1 => plain .cpm
  | 0xB2 => match minor with | 0 => some .twaitAny | 1 => some .twaitAll | _ => none
  | 0xB3 => plain .tfind
  | 0xB4 => match minor with | 0 => some .tchkTest | 1 => some .tchkWait | _ => none
  | 0xB5 => plain .tfree
  | 0xC0 => plain .mxa | 0xC1 => plain .mxq | 0xC2 => plain .aclr | 0xC3 => plain .acvt | 0xC4 => plain .acst
  | 0xC5 => plain .acld
  | 0xD0 => plain .bara | 0xD1 => plain .barw | 0xD2 => plain .bars | 0xD3 => plain .barq | 0xD4 => plain .gate
  | 0xD5 => plain .openGate
  | 0xD6 => if h : minor < 6 then some (.acq ⟨minor, h⟩)
            else if h : 8 ≤ minor ∧ minor < 14 then some (.acqW ⟨minor - 8, by omega⟩) else none
  | 0xD7 => if h : minor < 6 then some (.free ⟨minor, h⟩) else none
  | 0xD8 => if h : minor < 6 then some (.clmq ⟨minor, h⟩) else none
  | 0xE0 => plain .chsend | 0xE1 => plain .chrecv | 0xE2 => plain .chpoll | 0xE3 => plain .chclose
  | 0xE4 => plain .tspawn | 0xE5 => plain .wdq | 0xE6 => plain .time
  | 0xF0 => plain .movcr | 0xF1 => plain .movrc | 0xF2 => plain .eret | 0xF3 => plain .shdw | 0xF4 => plain .tlbi
  | 0xF5 => plain .halt
  | _ => none

/-- The MAJOR and MINOR codes of an instruction (R179); an event has none. -/
def Instr.code : Instr → Option (Nat × Nat)
  | .nop _ => some (0x00, 0)
  | .mov _ => some (0x01, 0)
  | .movsr _ => some (0x02, 0)
  | .iadd _ => some (0x03, 0)
  | .isub _ => some (0x04, 0)
  | .imul _ => some (0x05, 0)
  | .imulh _ => some (0x06, 0)
  | .imad _ => some (0x07, 0)
  | .imnxMin _ => some (0x08, 0)
  | .imnxMax _ => some (0x08, 1)
  | .iabnAbs _ => some (0x09, 0)
  | .iabnNeg _ => some (0x09, 1)
  | .iadd64 _ => some (0x0A, 0)
  | .isub64 _ => some (0x0B, 0)
  | .lea _ => some (0x0C, 0)
  | .logAnd _ => some (0x0D, 0)
  | .logOr _ => some (0x0D, 1)
  | .logXor _ => some (0x0D, 2)
  | .logAndn _ => some (0x0D, 3)
  | .tern _ => some (0x0E, 0)
  | .not _ => some (0x0F, 0)
  | .shShl _ => some (0x10, 0)
  | .shShr _ => some (0x10, 1)
  | .shSar _ => some (0x10, 2)
  | .shRot _ => some (0x10, 3)
  | .dshr _ => some (0x11, 0)
  | .bfx _ => some (0x12, 0)
  | .bfi _ => some (0x13, 0)
  | .popc _ => some (0x14, 0)
  | .clz _ => some (0x15, 0)
  | .brev _ => some (0x16, 0)
  | .bytx _ => some (0x17, 0)
  | .icmp k _ => some (0x20, k)
  | .icmp64 k _ => some (0x21, k)
  | .fcmp k _ => some (0x22, k)
  | .plopAnd _ => some (0x23, 0)
  | .plopOr _ => some (0x23, 1)
  | .plopXor _ => some (0x23, 2)
  | .plopAndn _ => some (0x23, 3)
  | .sel _ => some (0x24, 0)
  | .pmov _ => some (0x25, 0)
  | .fclass _ => some (0x26, 0)
  | .bra _ => some (0x30, 0)
  | .brx _ => some (0x31, 0)
  | .call _ => some (0x32, 0)
  | .callx _ => some (0x33, 0)
  | .ret _ => some (0x34, 0)
  | .exit _ => some (0x35, 0)
  | .yield _ => some (0x36, 0)
  | .trap _ => some (0x37, 0)
  | .bpt _ => some (0x38, 0)
  | .fadd _ => some (0x40, 0)
  | .fsub _ => some (0x41, 0)
  | .fmul _ => some (0x42, 0)
  | .ffma _ => some (0x43, 0)
  | .fmnxMin _ => some (0x44, 0)
  | .fmnxMax _ => some (0x44, 1)
  | .pkadd _ => some (0x45, 0)
  | .pkmul _ => some (0x46, 0)
  | .pkfma _ => some (0x47, 0)
  | .frcp _ => some (0x48, 0)
  | .frsq _ => some (0x49, 0)
  | .fsqrt _ => some (0x4A, 0)
  | .fexp2 _ => some (0x4B, 0)
  | .flog2 _ => some (0x4C, 0)
  | .fsin _ => some (0x4D, 0)
  | .fcos _ => some (0x4E, 0)
  | .cvt _ => some (0x60, 0)
  | .cvtf _ => some (0x61, 0)
  | .qblk _ => some (0x62, 0)
  | .dqblk _ => some (0x63, 0)
  | .lxchIdx _ => some (0x70, 0)
  | .lxchBack _ => some (0x70, 1)
  | .lxchFwd _ => some (0x70, 2)
  | .lxchXor _ => some (0x70, 3)
  | .lxchRot _ => some (0x70, 4)
  | .paggAny _ => some (0x71, 0)
  | .paggAll _ => some (0x71, 1)
  | .paggSame _ => some (0x71, 2)
  | .paggNone _ => some (0x71, 3)
  | .ballot _ => some (0x72, 0)
  | .eqmaskMask _ => some (0x73, 0)
  | .eqmaskLead _ => some (0x73, 1)
  | .lfoldAdd _ => some (0x74, 0)
  | .lfoldMin _ => some (0x74, 1)
  | .lfoldMax _ => some (0x74, 2)
  | .lfoldAnd _ => some (0x74, 3)
  | .lfoldOr _ => some (0x74, 4)
  | .lfoldXor _ => some (0x74, 5)
  | .lfoldCnt _ => some (0x74, 6)
  | .reord _ => some (0x75, 0)
  | .ld _ => some (0x80, 0)
  | .st _ => some (0x81, 0)
  | .ldw _ => some (0x82, 0)
  | .pref _ => some (0x83, 0)
  | .cpl _ => some (0x84, 0)
  | .ptest _ => some (0x85, 0)
  | .pclr _ => some (0x86, 0)
  | .atomAdd _ => some (0xA0, 0)
  | .atomMin _ => some (0xA0, 1)
  | .atomMax _ => some (0xA0, 2)
  | .atomAnd _ => some (0xA0, 3)
  | .atomOr _ => some (0xA0, 4)
  | .atomXor _ => some (0xA0, 5)
  | .atomExch _ => some (0xA0, 6)
  | .cas _ => some (0xA1, 0)
  | .redAdd _ => some (0xA2, 0)
  | .redMin _ => some (0xA2, 1)
  | .redMax _ => some (0xA2, 2)
  | .redAnd _ => some (0xA2, 3)
  | .redOr _ => some (0xA2, 4)
  | .redXor _ => some (0xA2, 5)
  | .fence _ => some (0xA3, 0)
  | .range _ => some (0xA4, 0)
  | .pfenceTile _ => some (0xA5, 0)
  | .pfenceMod _ => some (0xA5, 1)
  | .waitcnt k _ => some (0xA6, k)
  | .cpt _ => some (0xB0, 0)
  | .cpm _ => some (0xB1, 0)
  | .twaitAny _ => some (0xB2, 0)
  | .twaitAll _ => some (0xB2, 1)
  | .tfind _ => some (0xB3, 0)
  | .tchkTest _ => some (0xB4, 0)
  | .tchkWait _ => some (0xB4, 1)
  | .tfree _ => some (0xB5, 0)
  | .mxa _ => some (0xC0, 0)
  | .mxq _ => some (0xC1, 0)
  | .aclr _ => some (0xC2, 0)
  | .acvt _ => some (0xC3, 0)
  | .acst _ => some (0xC4, 0)
  | .acld _ => some (0xC5, 0)
  | .bara _ => some (0xD0, 0)
  | .barw _ => some (0xD1, 0)
  | .bars _ => some (0xD2, 0)
  | .barq _ => some (0xD3, 0)
  | .gate _ => some (0xD4, 0)
  | .openGate _ => some (0xD5, 0)
  | .acq k _ => some (0xD6, k)
  | .acqW k _ => some (0xD6, k + 8)
  | .free k _ => some (0xD7, k)
  | .clmq k _ => some (0xD8, k)
  | .chsend _ => some (0xE0, 0)
  | .chrecv _ => some (0xE1, 0)
  | .chpoll _ => some (0xE2, 0)
  | .chclose _ => some (0xE3, 0)
  | .tspawn _ => some (0xE4, 0)
  | .wdq _ => some (0xE5, 0)
  | .time _ => some (0xE6, 0)
  | .movcr _ => some (0xF0, 0)
  | .movrc _ => some (0xF1, 0)
  | .eret _ => some (0xF2, 0)
  | .shdw _ => some (0xF3, 0)
  | .tlbi _ => some (0xF4, 0)
  | .halt _ => some (0xF5, 0)
  | .reordRegroup .. => none
  | .taskGatherTimeout .. => none
  | .waveRetire .. => none
  | .gckRequestTest .. => none
  | .gckScan .. => none
  | .admitUnit .. => none
  | .loadDataReturn .. => none
  | .atomicReplyReturn .. => none
  | .serviceWarpPerform .. => none
  | .l1Eviction .. => none
  | .homeWriteBack .. => none
  | .promotionFlush .. => none
  | .copyChunkWrite .. => none
  | .cpmDelivery .. => none
  | .cplCopyComplete .. => none
  | .wdqAnswer .. => none
  | .mxaStep .. => none
  | .chrecvMessageTaken .. => none
  | .vesperWindowStart .. => none
  | .vesperWindowEnd .. => none
  | .timeDeadlineReached .. => none
  | .yieldExpire .. => none
  | .stallExpire .. => none
  | .faultReplay .. => none
  | .faultCancel .. => none
  | .ccTlbi .. => none
  | .shadowWriteBehind .. => none
  | .imageClose .. => none
  | .tilePowerLoss .. => none
  | .modulePowerLoss .. => none
  | .dawnResume .. => none
  | .moduleResumeRequest .. => none
  | .tlastWrite .. => none
  | .preempt .. => none
  | .preemptResume .. => none
  | .partitionCreate .. => none
  | .partitionDestroy .. => none
  | .serviceReload .. => none
  | .serviceStoreSwap .. => none
  | .doorbellWrite .. => none
  | .qcbCommit .. => none
  | .ccWatchdogExpire => none
  | .nopPacket .. => none
  | .launchPacket .. => none
  | .graphPacket .. => none
  | .tasksPacket .. => none
  | .copyPacket .. => none
  | .wsloadPacket .. => none
  | .condPacket .. => none
  | .condReevaluate .. => none
  | .tlwaitPacket .. => none
  | .tlsigPacket .. => none
  | .fencePacket .. => none
  | .markPacket .. => none
  | .budgetPeriodBoundary .. => none
  | .patrolScrub .. => none
  | .rblWrite .. => none
  | .gckLimitWrite .. => none
  | .vtgtWrite .. => none
  | .voltageRequestFinish .. => none
  | .noonTick .. => none
  | .thermalStepChange .. => none
  | .sliceGate .. => none
  | .sliceWake .. => none
  | .ptpMessage .. => none
  | .errorCountClear .. => none
  | .flitCrcRetry .. => none
  | .herrumLaneFail .. => none
  | .hbmChannelSpare .. => none
  | .edramBankSpare .. => none
  | .sparingMapUpdate .. => none
  | .powerOn .. => none
  | .leaseAuthorityEnrol .. => none
  | .leaseStart .. => none
  | .leaseEnd .. => none
  | .recoveryResetDvsec .. => none
  | .recoveryResetPin .. => none
  | .functionLevelReset => none
  | .registerWrite .. => none
  | .storeComplete .. => none
  | .debuggerAccess .. => none
  | .laneRetrainComplete .. => none

/-! ### The form of each opcode (R180 and the operand tables) -/

/-- The operand classes of R171 and R172. -/
inductive Cls where
  | v | s | sp | imm | p | f | g | c | t | bar | imm32 | zero
  deriving DecidableEq, Repr

/-- The class of an operand. -/
def Operand.cls : Operand → Cls
  | .v _ => .v | .s _ => .s | .sp _ => .sp | .imm _ => .imm | .p _ => .p | .f _ => .f | .g _ => .g | .c _ => .c
  | .t _ => .t | .bar _ _ => .bar | .imm32 _ => .imm32 | .zero => .zero

/-- How wide an operand position is (R14, R74). -/
inductive Width where
  | one
  | pair
  | quad
  /-- as the TYPE code says -/
  | byType
  /-- a pair when SPACE is `.g` -/
  | bySpace
  /-- a pair when OPT bits 30:28 name `.g` -/
  | byOpt
  /-- as CVT's source type says -/
  | bySource
  deriving DecidableEq, Repr

/-- Which sources an S destination forbids: none, all but uniform ones (R183), or V registers (R235). -/
inductive Uniform where
  | free | strict | noV
  deriving DecidableEq, Repr

/-- What one opcode admits. A position list of `[.zero]` is an unused field (R178). -/
structure Form where
  d : List Cls := [.zero]
  a : List Cls := [.zero]
  b : List Cls := [.zero]
  c : List Cls := [.zero]
  /-- TYPE codes besides 0, the default first (R185); empty where TYPE must be 0. -/
  types : List Ty := []
  spaces : List Space := [.g]
  orders : List Order := [.rlx]
  scopes : List Scope := [.bk]
  optMask : BitVec 9 := 0
  needsC : Bool := false
  uniform : Uniform := .free
  wd : Width := .one
  wa : Width := .one
  wb : Width := .one
  wc : Width := .one
  deriving DecidableEq, Repr

namespace Form

/-- Sources of R187. -/
def ints : List Cls := [.v, .s, .sp, .imm, .zero, .imm32]
/-- Sources of R188: pairs, special registers and immediates. -/
def longs : List Cls := [.v, .s, .sp, .imm, .imm32]
/-- Sources of FCMP and FCLASS: the data classes that R180 gives their group, which R202 and R206 do not narrow; a predicate
is no encoding of a number (log 54). -/
def floatsSp : List Cls := [.v, .s, .sp, .imm, .zero, .imm32]
/-- Sources of R216. -/
def floats : List Cls := [.v, .s, .imm, .zero, .imm32]
/-- Destinations in V, S or ZERO. -/
def dest : List Cls := [.v, .s, .zero]
/-- Addresses and offsets of R233. -/
def addr : List Cls := [.v, .s, .zero]
def offset : List Cls := [.v, .s, .imm, .zero]
def intTypes : List Ty := [.s32, .n32]
def floatTypes : List Ty := [.f32, .f16, .bf16]
def memTypes : List Ty := [.n32, .s8, .s16, .s32, .n8, .n16, .n64, .s64, .a128]
def atomTypes : List Ty := [.n32, .s32, .n64, .s64]
def allScopes : List Scope := [.bk, .wv, .cl, .sd, .gd, .sy]
/-- A 64-bit mask operand of R275. -/
def mask : List Cls := [.s, .imm, .imm32, .zero]
/-- A channel slot operand of R285. -/
def chan : List Cls := [.c, .s, .imm]

/-- Integer forms with one, two and three sources. -/
def int1 (types : List Ty) : Form :=
  { d := dest, a := ints, types, uniform := .strict, wd := .byType, wa := .byType }
def int2 (types : List Ty) : Form :=
  { d := dest, a := ints, b := ints, types, uniform := .strict, wd := .byType, wa := .byType, wb := .byType }
def int3 (types : List Ty) : Form :=
  { d := dest, a := ints, b := ints, c := ints, types, needsC := true, uniform := .strict, wd := .byType, wa := .byType }
/-- Floating-point forms with one, two and three sources. -/
def float1 (types : List Ty) : Form :=
  { d := dest, a := floats, types, uniform := .strict, wd := .byType, wa := .byType }
def float2 (types : List Ty) : Form :=
  { d := dest, a := floats, b := floats, types, uniform := .strict, wd := .byType, wa := .byType, wb := .byType }
def float3 (types : List Ty) : Form :=
  { d := dest, a := floats, b := floats, c := floats, types, needsC := true, uniform := .strict, wd := .byType,
    wa := .byType, wb := .byType, wc := .byType }
/-- Predicate logic (R203). -/
def plop : Form := { d := [.p, .zero], a := [.p, .zero], b := [.p, .zero] }
def lxch : Form :=
  { d := [.v], a := [.v], b := floats, types := [.n32, .n64], wd := .byType, wa := .byType }
def pagg : Form := { d := [.p, .s, .zero], a := [.p] }
def eqmask : Form := { d := [.v], a := [.v], types := [.n32, .n64], wa := .byType }
def lfold : Form :=
  { d := dest, a := [.v], types := [.s32, .n32, .s64, .n64], wd := .byType, wa := .byType }
def atom : Form :=
  { d := dest, a := [.v, .s], b := [.v, .s, .imm], types := atomTypes, orders := [.rlx, .acq, .rel, .ar],
    scopes := allScopes, uniform := .noV, wd := .byType, wa := .pair, wb := .byType }
def red : Form :=
  { d := [.v, .s], a := [.v, .s, .imm], types := atomTypes, orders := [.rlx, .rel], scopes := allScopes,
    wd := .pair, wa := .byType }
def tagOp : List Cls := [.t, .imm32]
def barOp : List Cls := [.bar, .imm32]
def wait : Form := { a := mask, wa := .pair }

end Form

open Form in
/-- The form of each opcode: R187-R206, R207-R214, R216-R223, R225-R230, R233, R258, R275, R285, R381. D of ST, RED and CPL is an
address and no destination (log 65). A `byType` width follows the TYPE as written, admitted or not (R181; log 77). -/
def formOf : Op → Form
  | .nop => {}
  | .mov => { d := dest, a := ints ++ [.f, .c], types := [.n32, .n64], uniform := .strict, wd := .byType, wa := .byType }
  | .movsr => { d := [.s], a := [.v], b := [.s, .imm, .imm32, .zero], types := [.n32, .n64], wd := .byType, wa := .byType }
  | .iadd | .isub | .imul | .imulh | .imnxMin | .imnxMax => int2 intTypes
  | .imad => { int3 intTypes with wb := .byType, wc := .byType }
  | .iabnAbs | .iabnNeg => int1 [.s32]
  | .iadd64 | .isub64 =>
    { d := dest, a := longs, b := longs, types := [.s64, .n64], uniform := .strict, wd := .pair, wa := .pair, wb := .pair }
  | .lea => { d := [.v, .s], a := [.v, .s, .sp, .zero], b := ints, c := ints, types := [.n32, .s32], needsC := true,
              uniform := .strict, wd := .pair, wa := .pair }
  | .logAnd | .logOr | .logXor | .logAndn => int2 [.n32]
  | .tern => { int3 [.n32] with optMask := 0xFF, wb := .byType, wc := .byType }
  | .not => int1 [.n32]
  | .shShl | .shShr | .shSar | .shRot => int2 [.n32]
  | .dshr | .bfi | .bytx => { int3 [.n32] with wb := .byType, wc := .byType }
  | .bfx => { int3 [.n32, .s32] with wb := .byType, wc := .byType }
  | .popc | .clz | .brev => int1 [.n32]
  | .icmp => { d := [.p, .zero], a := ints, b := ints, wa := .byType, wb := .byType }
  | .icmp64 => { d := [.p, .zero], a := longs, b := longs, wa := .pair, wb := .pair }
  | .fcmp => { d := [.p, .zero], a := floatsSp, b := floatsSp, types := floatTypes, wa := .byType, wb := .byType }
  | .plopAnd | .plopOr | .plopXor | .plopAndn => plop
  | .sel => { d := dest, a := [.v, .s, .sp, .imm, .zero], b := [.v, .s, .sp, .imm, .zero], c := [.p],
              types := [.n32, .n64], needsC := true, uniform := .strict, wd := .byType, wa := .byType, wb := .byType }
  | .pmov => { d := [.p, .v], a := [.p, .s, .sp, .imm, .imm32, .zero, .v], wa := .byType }
  | .fclass => { float1 [.f32, .f16, .bf16, .e4m3, .e5m2] with a := floatsSp, wd := .one }
  | .bra | .call => { a := [.imm, .imm32] }
  | .brx | .callx => { a := [.v, .s], b := [.imm, .imm32, .zero] }
  | .ret | .exit | .yield => {}
  | .trap => { a := [.s, .imm, .imm32] }
  | .bpt => { a := [.imm, .imm32, .zero] }
  | .fadd | .fsub | .fmul | .fmnxMin | .fmnxMax => float2 floatTypes
  | .ffma => float3 floatTypes
  | .pkadd | .pkmul => { float2 [.f16, .bf16] with optMask := 0x3 }
  | .pkfma => { float3 [.f16, .bf16] with optMask := 0x3 }
  | .frcp | .frsq | .fsqrt | .fexp2 | .flog2 | .fsin | .fcos => float1 floatTypes
  | .cvt => { d := dest, a := floats, b := [.imm],
              types := [.f32, .s8, .s16, .s32, .s64, .n8, .n16, .n32, .n64, .f16, .bf16, .e4m3, .e5m2, .e2m1, .dsw8, .dsw4],
              uniform := .strict, wd := .byType, wa := .bySource }
  | .cvtf => { d := dest, a := addr, b := [.f], c := [.f], optMask := 0x7, needsC := true, uniform := .strict }
  | .qblk => { d := [.v], a := [.v], b := [.f], types := floatTypes }
  | .dqblk => { d := dest, a := [.v, .s], b := [.f], types := floatTypes, uniform := .strict }
  | .lxchIdx | .lxchBack | .lxchFwd | .lxchXor | .lxchRot => lxch
  | .paggAny | .paggAll | .paggSame | .paggNone => pagg
  | .ballot => { d := dest, a := [.p] }
  | .eqmaskMask | .eqmaskLead => eqmask
  | .lfoldAdd | .lfoldMin | .lfoldMax | .lfoldAnd | .lfoldOr | .lfoldXor | .lfoldCnt => lfold
  | .reord => { a := [.v], b := [.s, .imm32] }
  | .ld => { d := dest, a := addr, b := offset, types := memTypes, spaces := [.g, .sp, .csp, .pv, .k],
             orders := [.rlx, .acq], scopes := allScopes, uniform := .noV, wd := .byType, wa := .bySpace }
  | .st => { d := addr, a := offset, b := offset, types := memTypes, spaces := [.g, .sp, .csp, .pv],
             orders := [.rlx, .rel], scopes := allScopes, wd := .bySpace, wa := .byType }
  | .ldw => { d := dest, a := [.v, .s], b := offset, types := [.n32, .n8, .n16, .n64, .a128], uniform := .noV, wd := .byType }
  | .pref => { a := [.v, .s], b := offset, wa := .pair }
  | .cpl => { d := addr, a := addr, types := [.n32, .n64, .a128], spaces := [.g, .sp, .csp, .pv], scopes := allScopes,
              optMask := 0x7, wd := .bySpace, wa := .byOpt }
  | .ptest => { d := [.p, .v, .s, .zero], a := [.v, .s, .p], uniform := .noV, wa := .byType }
  | .pclr => { d := [.v, .s, .p], a := [.v, .s, .p], types := [.n32, .n64], uniform := .noV, wd := .byType, wa := .byType }
  | .atomAdd | .atomMin | .atomMax | .atomAnd | .atomOr | .atomXor | .atomExch => atom
  | .cas => { atom with c := [.v, .s], needsC := true, wc := .byType }
  | .redAdd | .redMin | .redMax | .redAnd | .redOr | .redXor => red
  | .fence => { a := [.imm, .zero], orders := [.acq, .rel, .ar], scopes := allScopes }
  | .range => { d := [.g], a := [.s, .imm, .zero], b := [.s, .imm, .zero], wa := .pair, wb := .pair }
  | .pfenceTile | .pfenceMod => { a := [.imm, .zero] }
  | .waitcnt => { a := [.imm] }
  | .cpt => { d := tagOp, a := [.s], spaces := [.sp, .csp], scopes := allScopes, optMask := 0x1, wa := .pair }
  | .cpm => { d := tagOp ++ [.s], a := [.s], b := [.s], c := [.s, .imm, .zero], wa := .pair, wb := .pair }
  | .twaitAny | .twaitAll => wait
  | .tfind => { wait with d := [.s] }
  | .tchkTest => { d := [.s], a := tagOp, b := mask, wb := .pair }
  | .tchkWait => { a := tagOp, b := mask, wb := .pair }
  | .tfree => { a := tagOp }
  | .mxa => { a := mask }
  | .mxq => { d := [.s], a := [.s, .imm], wd := .pair }
  | .aclr => { a := [.s, .imm], b := [.s, .imm] }
  | .acvt => { d := [.v], a := [.s, .imm], b := [.v, .s, .imm],
               types := [.f32, .f16, .bf16, .e4m3, .e5m2, .e2m1, .s8, .s16, .s32, .s64, .n8, .n16, .n32, .n64, .dsw8, .dsw4,
                         .a128], optMask := 0x1, wd := .byType }
  | .acst => { d := [.s, .zero], a := [.s, .imm],
               types := [.a128, .f32, .f16, .bf16, .e4m3, .e5m2, .e2m1, .s8, .s32, .dsw8, .dsw4], optMask := 0x7, wd := .byOpt }
  | .acld => { a := [.s, .imm], b := [.s, .zero], c := [.s, .imm], types := [.a128, .f32, .f16, .bf16, .s32],
               optMask := 0x7, needsC := true, wb := .byOpt }
  | .bara => { d := [.s, .zero], a := barOp }
  | .barw => { a := barOp, b := [.s, .zero], optMask := 0x1 }
  | .bars => { a := barOp }
  | .barq => { d := [.s], a := barOp, wd := .pair }
  | .gate | .openGate => {}
  | .acq | .acqW => { d := [.s, .zero], a := [.s, .imm, .imm32] }
  | .free => { a := [.s, .imm, .imm32] }
  | .clmq => { d := [.s], wd := .quad }
  | .chsend => { a := chan, b := [.s, .imm, .imm32] }
  | .chrecv => { d := [.s], a := chan, wd := .pair }
  | .chpoll => { d := [.s], a := chan }
  | .chclose => { a := chan }
  | .tspawn => { d := dest, a := [.v, .s] }
  | .wdq => { a := [.s, .imm], b := [.s, .imm], c := [.s, .zero] }
  | .time => { d := [.s, .v], a := [.s, .zero], wd := .pair, wa := .pair }
  | .movcr => { d := [.s], a := [.s, .imm, .imm32] }
  | .movrc => { a := [.s, .imm, .imm32], b := [.s] }
  | .eret => {}
  | .shdw => { d := [.s], a := [.imm] }
  | .tlbi => { a := [.s], b := [.s, .imm, .zero], wa := .pair }
  | .halt => { a := mask }

/-! ### The checks of R181, in their order -/

/-- The 32-bit value of an immediate operand (R186). -/
def Operand.immWord? : Operand → Option Word
  | .imm b => some (b.signExtend 32)
  | .imm32 w => some w
  | .zero => some 0
  | _ => none

/-- A register number that R379 lists. -/
def trapRegNum (n : Nat) : Bool := n < 7 || 8 ≤ n && n < 12

/-- Subcode 2 beyond the fields themselves: values that a reference reserves (R233, R382, R384). -/
def badValue (op : Op) (x : Fields) : Bool :=
  match op with
  | .waitcnt => match x.a with | .imm b => ! decide (b.toNat < 64) | _ => false
  | .movcr | .movrc => match x.a.immWord? with | some w => ! trapRegNum w.toNat | none => false
  | .shdw => match x.a with | .imm b => ! decide (b.toNat < 4) | _ => false
  | _ => false

/-- A class outside its position's list. IMM32 in a used position is judged later, under subcode 6. -/
def badClass (admitted : List Cls) (o : Operand) : Bool :=
  match o with
  | .imm32 _ => admitted == [.zero]
  | o => ! admitted.contains o.cls

/-- A source that an S destination forbids (R183, R235). -/
def notUniform (u : Uniform) (o : Operand) : Bool :=
  match u, o with
  | .free, _ => false
  | _, .v _ => true
  | .strict, .sp .laneid => true
  | .strict, .sp .taskid => true
  | .strict, .p n => n != 7
  | _, _ => false

/-- The operand pairings and positions that single references narrow further, under subcode 3: SEL's 64-bit sources (R188,
R204), PMOV (R205), REORD (R230),
PFENCE.mod (R255), BARA, BARW and BARQ of WB0 (R293), BARW's token (R285), record bases (R275, R305), global addresses
(R233). -/
def badPairing (op : Op) (x : Fields) : Bool :=
  match op with
  | .pmov => match x.d, x.a with
    | .p _, .sp .laneid => true
    | .p _, .sp .taskid => true
    | .p _, _ => false
    | _, .p _ => false
    | _, _ => true
  | .sel => x.ty == .n64 && (x.a == .zero || x.b == .zero)
  | .reord => x.gn || x.gp != 7
  | .pfenceMod => x.a != .zero
  | .bara | .barq => x.a == .bar 0 0 || x.a == .imm32 0
  | .barw => x.a == .bar 0 0 || x.a == .imm32 0 || (x.opt.getLsbD 0 != (x.b != .zero))
  | .cpt => match x.a with | .s n => decide (120 < n.val ∧ n.val % 2 = 0) | _ => false
  | .cpm => (match x.a with | .s n => decide (120 < n.val ∧ n.val % 2 = 0) | _ => false)
      || (match x.b with | .s n => decide (126 < n.val ∧ n.val % 2 = 0) | _ => false)
  | .tspawn => match x.a with | .v n => decide (240 < n.val) | .s n => decide (112 < n.val) | _ => false
  | .ld => x.space == .g && x.a == .zero
  | .st => x.space == .g && x.d == .zero
  | .cpl => x.space == .g && x.d == .zero || x.opt.extractLsb' 0 3 == 0 && x.a == .zero
  | _ => false

/-- Subcode 3: classes, unused fields and uniform sources. An IMM32 leaves no C operand (R173). A CVT with an S destination and a V
register or P0-P6 in B meets R183 here, before R220's subcode 5 (log 76). -/
def badForm (op : Op) (x : Fields) : Bool :=
  let f := formOf op
  badClass f.d x.d || badClass f.a x.a || (op != .cvt && badClass f.b x.b)
    || (x.imm32Count == 0 && badClass f.c x.c)
    || (x.d.cls == .s && (notUniform f.uniform x.a || notUniform f.uniform x.b || notUniform f.uniform x.c))
    || badPairing op x

/-- Registers that an operand of a type takes: one, a pair or a quad (R14). -/
def Ty.regs : Ty → Nat
  | .s64 | .n64 => 2
  | .a128 => 4
  | _ => 1

/-- The source type that CVT's B names (R220). -/
def cvtSource (x : Fields) : Option Ty :=
  match x.b with
  | .imm b => if 1 ≤ b.toNat ∧ b.toNat ≤ 0x10 then tyOf b.toNat else none
  | _ => none

/-- The TYPE of an instruction after its default: the first type its form lists (R185). -/
def effectiveTy (op : Op) (x : Fields) : Ty :=
  if x.ty = .dflt then (formOf op).types.headD .dflt else x.ty

/-- Registers of an operand position. -/
def Width.regs (w : Width) (op : Op) (x : Fields) : Nat :=
  match w with
  | .one => 1
  | .pair => 2
  | .quad => 4
  | .byType => (effectiveTy op x).regs
  | .bySpace => if x.space = .g then 2 else 1
  | .byOpt => if x.opt.extractLsb' 0 3 = 0 then 2 else 1
  | .bySource => match cvtSource x with | some t => t.regs | none => 1

/-- A special register of 64 bits, named by its even number (R76). -/
def SReg.is64 : SReg → Bool
  | .time | .clock | .tagmap => true
  | _ => false

/-- Subcode 4 for one position: an odd pair base, a misaligned quad base, or a special register that is not 64 bits wide
in a 64-bit position. -/
def badBase (regs : Nat) (o : Operand) : Bool :=
  match o with
  | .v n => ! decide (n.val % regs = 0)
  | .s n => ! decide (n.val % regs = 0)
  | .sp r => regs == 2 && ! r.is64
  | _ => false

/-- Subcode 4. -/
def badAlign (op : Op) (x : Fields) : Bool :=
  let f := formOf op
  badBase (f.wd.regs op x) x.d || badBase (f.wa.regs op x) x.a || badBase (f.wb.regs op x) x.b
    || badBase (f.wc.regs op x) x.c

/-- Subcode 5: TYPE, SPACE, ORDER, SCOPE and OPT (R174, R175, R185 and the references). -/
def badModifier (op : Op) (x : Fields) : Bool :=
  let f := formOf op
  (x.ty != .dflt && ! f.types.contains x.ty) || ! f.spaces.contains x.space || ! f.orders.contains x.order
    || ! f.scopes.contains x.scope || (x.opt &&& ~~~ f.optMask) != 0
    || (match op with
        | .mov => (x.a.cls == .f || x.a.cls == .c) && x.ty != .dflt && x.ty != .n32
        | .cvt => (cvtSource x).isNone
        | .cpl => decide (4 < (x.opt.extractLsb' 0 3).toNat) || x.space == .pv && x.scope != .bk
        | .acst | .acld => decide (2 < (x.opt.extractLsb' 0 3).toNat)
        | .ld | .st => (x.space == .pv || x.space == .k) && (x.order != .rlx || x.scope != .bk)
        | _ => false)

/-- An IMM32 that names a tag (R172). -/
def badTagImm (w : Word) : Bool := ! decide (w.toNat < 64)

/-- An IMM32 that names a barrier (R172). -/
def badBarImm (w : Word) : Bool :=
  let level := w.toNat / 16
  let index := w.toNat % 16
  ! decide (w.toNat < 64) || (level == 0 && index != 0) || (level == 3 && decide (7 < index))

/-- Subcode 6 for one position. -/
def badImm (admitted : List Cls) (o : Operand) : Bool :=
  match o with
  | .imm32 w =>
    ! admitted.contains .imm32 || (admitted.contains .t && badTagImm w) || (admitted.contains .bar && badBarImm w)
  | _ => false

/-- A position that takes a class-10 range mask (R12, R180). -/
def takesMask : Op → Bool
  | .fence | .pfenceTile | .pfenceMod => true
  | _ => false

/-- Subcode 6. -/
def badImmUse (op : Op) (x : Fields) : Bool :=
  let f := formOf op
  decide (1 < x.imm32Count) || badImm f.d x.d || badImm f.a x.a || badImm f.b x.b || x.c.isImm32
    || (x.imm32Count == 1 && f.needsC) || (takesMask op && x.a == .imm 0)

/-- A policy bit on an operand that names no V or S register (R176). -/
def badPolicy (bit : Bool) (o : Operand) : Bool :=
  bit && ! (o.cls == .v || o.cls == .s)

/-- The first check of R181 that an instruction fails after its fields have been read; none when it is an instruction. -/
def firstFault (op : Op) (x : Fields) : Option Nat :=
  if badValue op x then some 2
  else if badForm op x then some 3
  else if badAlign op x then some 4
  else if badModifier op x then some 5
  else if badImmUse op x then some 6
  else if badPolicy x.ea x.a || badPolicy x.eb x.b || badPolicy x.ec x.c then some 7
  else none

/-- A well-formed instruction: an event, or a word that passes every check of R181. -/
def Instr.wf (i : Instr) : Bool :=
  match i.op, i.fields with
  | some op, some x => x.wordForm && (firstFault op x).isNone
  | _, _ => true

/-! ### Decoding -/

/-- The bits `lo` upward of a word, as a number. -/
def bitsAt (w : BitVec 96) (lo len : Nat) : Nat := (w.extractLsb' lo len).toNat

/-- The D, A, B and X fields of a word read as operands and modifiers (R169-R175); none for a reserved value. -/
def fieldsOf (w : BitVec 96) : Option Fields := do
  let d ← operandOf (w.extractLsb' 70 10)
  let a ← operandOf (w.extractLsb' 60 10)
  let b ← operandOf (w.extractLsb' 50 10)
  let x : Word := w.extractLsb' 18 32
  let base : Fields :=
    { gn := w.getLsbD 83, gp := ⟨bitsAt w 80 3, by unfold bitsAt; omega⟩,
      d := d.withImm x, a := a.withImm x, b := b.withImm x, c := .zero,
      ty := .dflt, space := .g, order := .rlx, scope := .bk, opt := 0,
      ea := w.getLsbD 17, eb := w.getLsbD 16, ec := w.getLsbD 15,
      stall := w.extractLsb' 11 4, yld := w.getLsbD 10, reuse := w.extractLsb' 8 2 }
  if d.isImm32 || a.isImm32 || b.isImm32 then
    some base
  else do
    let c ← operandOf (w.extractLsb' 18 10)
    let ty ← tyOf (bitsAt w 45 5)
    let space ← spaceOf (bitsAt w 42 3)
    let order ← orderOf (bitsAt w 40 2)
    let scope ← scopeOf (bitsAt w 37 3)
    some { base with c, ty, space, order, scope, opt := w.extractLsb' 28 9 }

/-- MAJOR of a word (R169). -/
def majorOf (w : BitVec 96) : Nat := bitsAt w 88 8

/-- The word is one of the privileged MAJOR codes, which R181 looks at first. -/
def privilegedWord (w : BitVec 96) : Bool := 0xF0 ≤ majorOf w && majorOf w ≤ 0xF5

/-- Decode a word, or give the ILLEGAL subcode of the first failing check (R181). The PRIV check, which depends on the
wave's level, comes before this. -/
def decodeWord (w : BitVec 96) : Except Nat Instr :=
  match instrOf (majorOf w) (bitsAt w 84 4) with
  | none => .error 1
  | some make =>
    if bitsAt w 0 8 ≠ 0 then .error 2
    else
      match fieldsOf w with
      | none => .error 2
      | some x =>
        match (make x).op with
        | none => .error 1
        | some op =>
          match firstFault op x with
          | some subcode => .error subcode
          | none => .ok (make x)

/-- Twelve bytes in memory as a word: three little-endian words, the first at the lowest address (R3, R169). -/
def wordOfBytes (bs : List Byte) : BitVec 96 :=
  BitVec.ofNat 96 (bs.foldr (fun b n => b.toNat + 256 * n) 0)

/-- Decode any bytes: the instruction and the bytes after it, or a subcode; fewer than twelve bytes hold no instruction. -/
def decodeBytes (bs : List Byte) : Except Nat (Instr × List Byte) :=
  if bs.length < 12 then .error 1
  else (decodeWord (wordOfBytes (bs.take 12))).map (fun i => (i, bs.drop 12))

/-! ### Encoding -/

/-- The X field: the IMM32, or the C operand and the modifiers (R173, R174). -/
def xField (x : Fields) : BitVec 32 :=
  match x.d.immValue.or (x.a.immValue.or x.b.immValue) with
  | some w => w
  | none =>
    BitVec.ofNat 5 (tyNum x.ty) ++ BitVec.ofNat 3 (spaceNum x.space) ++ BitVec.ofNat 2 (orderNum x.order)
      ++ BitVec.ofNat 3 (scopeNum x.scope) ++ x.opt ++ operandField x.c

/-- The word of an instruction (R169); an event has none and gives the word of zeros, which no instruction has. -/
def encode (i : Instr) : BitVec 96 :=
  match i.code, i.fields with
  | some (major, minor), some x =>
    BitVec.ofNat 8 major ++ BitVec.ofNat 4 minor ++ BitVec.ofBool x.gn ++ BitVec.ofNat 3 x.gp ++ operandField x.d
      ++ operandField x.a ++ operandField x.b ++ xField x ++ BitVec.ofBool x.ea ++ BitVec.ofBool x.eb
      ++ BitVec.ofBool x.ec ++ x.stall ++ BitVec.ofBool x.yld ++ x.reuse ++ 0#8
  | _, _ => 0

/-- The `n` low bytes of a number, the lowest first (R3). -/
def bytesOf (n v : Nat) : List Byte :=
  match n with
  | 0 => []
  | n + 1 => BitVec.ofNat 8 v :: bytesOf n (v / 256)

/-- The twelve bytes of an instruction as memory holds them. -/
def encodeBytes (i : Instr) : List Byte := bytesOf 12 (encode i).toNat

/-- The instruction that the decoder reads from an instruction whose bits are `w`, bit 0 the least significant of the
first word; bits above the row's count are 0. -/
def decodeTableWord (_nbits w : Nat) : Option Instr :=
  match decodeBytes (bytesOf 12 w) with
  | .ok (i, _) => some i
  | .error _ => none

end Sys2Proof
end

