-- ==== Sys2Proof/Config.lean ====
section
/-! DEFINITION. What one implementation fixes, and the free values: constants without a body, of which no
proof can learn a value (logs 4, 7 and 8). -/

namespace Sys2Proof.Config

/-- The hash that chooses a granule's home among a partition's clusters (R122): the manual gives no hash. -/
opaque homeHash : Nat → Nat

/-- Whether an access to a 16 KiB page uses a cached translation whose entry has since been changed (R373). -/
opaque staleTlb : Nat → Nat → Bool

/-- Whether a byte of a chunk with an uncorrectable source keeps its old value (R278). -/
opaque keepOld : Nat → Bool

/-- Bytes that the manual leaves without a value (an uncorrectable unit's content, R412). -/
opaque freeByte : Nat → Byte

/-- An accumulator element that a step with two residue mismatches touched (R265). -/
opaque freeAcc : Nat → BitVec 128

/-- How far a die's oscillators lie off their nominal frequency, in tenths of a per cent above -5 % (R360). -/
opaque freqSkew : Nat → Nat

/-- Whether an error unit lies in the pseudo-channel of a stack domain that a spare replaces (R400, R412). -/
opaque spareHeals : Nat → Nat → Bool

/-- Mismatches that a pass of a Midnight scrub finds in an element's samples (R406), and how many samples beyond the least it takes. -/
opaque scrubMismatches : Nat → Nat → Nat
opaque scrubSamples : Nat → Nat → Nat

/-- Units of a scrub element (R406) beyond those whose storage the manual sizes: spare storage, and elements of which it gives no size. -/
opaque moreUnits : Nat → Nat

/-- Payload bytes of a record that the module writes, before the bound of R402, and those bytes: the manual gives no layout of them. -/
opaque payloadBytes : Nat → Nat
opaque payloadByte : Nat → Nat → Nat → Byte

/-- The SHA-384 of the identity public keys of a device in a key generation, and the bytes of a signature (R402, R407). -/
opaque deviceId : Nat → Nat → BitVec 384
opaque signature : Nat → Nat → Byte

/-- The first two words of the DVSEC's standard header (R408): the manual names no vendor. -/
opaque dvsecHeader : Nat → Word

/-- How long a Midnight scrub takes, in nanoseconds, before its bound is applied (R406). -/
opaque scrubTime : Nat → Nat

/-- Clusters of the module (headline figures of the scope file). -/
def clusters : Nat := 128
/-- Cores of a cluster. -/
def coresPerCluster : Nat := 4
/-- Wave slots of a core. -/
def slotsPerCore : Nat := 64
/-- Slices of a core; a cluster has sixteen (R55). -/
def slicesPerCore : Nat := 4
/-- Clusters of one stack domain (R2). -/
def clustersPerDomain : Nat := 8
/-- Stack domains of the module. -/
def domains : Nat := 16
/-- Compute dies; each carries four stack domains. -/
def dies : Nat := 4
/-- Weight-store bytes of one die (R126). -/
def wsBytesPerDie : Nat := 3 * 2 ^ 30
/-- Room in the model for one die: a share of up to 3 GiB for each of sixteen partition numbers (R126, R395; log 41). -/
def wsDieSpan : Nat := 16 * wsBytesPerDie
/-- Herrum ports. -/
def ports : Nat := 32
/-- Physical address bit that selects the MRAM persistent window (R372). -/
def mramBit : Nat := 2 ^ 55
/-- Physical address bit of a leaf that maps host memory (R409). -/
def hostBit : Nat := 2 ^ 54
/-- Bytes of one REG granule row: eight V registers (R54). -/
def regsPerGranule : Nat := 8
/-- Bytes of one SPM granule (R54). -/
def spmBytes : Nat := 4096
/-- Bytes of one CSP granule (R54). -/
def cspBytes : Nat := 65536
/-- The backlog, in KiB, above which an instruction waits (R389). -/
def backlogLimit : Nat := 1536

end Sys2Proof.Config
end

