-- ==== Sys2Proof/Machine/State.lean ====
section
/-! DEFINITION. The machine's state as plain data: everything the manual gives the module, and the model's own fields that
say which agent moves next. -/

namespace Sys2Proof.Machine

/-! ### Registers of a wave -/

/-- One register element: value, full/empty bit and poison bit (R72, R80, R83). -/
structure Elem where
  val : Word
  full : Bool
  pz : Bool
  deriving DecidableEq, Repr

/-- What every V and S register holds when a wave starts (R73). -/
def Elem.start : Elem := { val := 0, full := true, pz := false }

/-- One lane's element of a predicate: always full (R72). -/
structure Pred where
  val : Bool
  pz : Bool
  deriving DecidableEq, Repr

/-- What P0-P6 hold when a wave starts (R73). -/
def Pred.start : Pred := { val := false, pz := false }

/-- The three states of a lane (R25). -/
inductive LaneState where
  | live | exited | absent
  deriving DecidableEq, Repr

/-- One lane of a wave: its row of the PC table (R28, R31, R378), its return stack (R35, R36), its task identifier (R27)
and the private group and member that its thread keeps for life (R120). -/
structure Lane where
  state : LaneState
  pc : Nat
  held : Bool
  frozen : Bool
  /-- hardware entries of the return stack, newest first, each with its poison (R36) -/
  stack : List (Word × Bool)
  /-- frames spilled to the thread's private memory (R36) -/
  spilled : Nat
  task : Word
  group : Nat
  member : Nat
  deriving DecidableEq, Repr

/-- A range register: global addresses from base up to, and not including, limit (R87). -/
structure Range where
  base : DWord
  limit : DWord
  deriving DecidableEq, Repr

/-- One lane's access of an uncompleted operation. `addr` is a physical address for `.g` and `.pv`, an offset in the storage
of block `owner` for `.sp` and `.csp`, an offset for `.k`, and a share address for the weight store. `src` is the source
address of a CPL, in `sown`'s storage when the source is a scratchpad. `va` is a global access's virtual address. `data` holds
a store's bytes; `b` and `c` the operands of an atomic. -/
structure Access where
  lane : Nat
  addr : Nat
  va : Nat
  owner : Nat
  src : Nat
  sown : Nat
  data : List Byte
  b : DWord
  c : DWord
  deriving DecidableEq, Repr

/-- What an uncompleted operation of a wave is. -/
inductive OpKind where
  | load | loadWs | store | copy | atomic | reduce | matrix | receive
  deriving DecidableEq, Repr

/-- An operation that a wave has issued and that is not complete. A wave's outstanding counters (R91, R92) and range counts
(R87) are views of the list of these. -/
structure Pend where
  id : Nat
  kind : OpKind
  /-- class code of R91; none for an operation that counts on no counter -/
  cls : Option Nat
  dst : Operand
  /-- bytes of one lane's access -/
  size : Nat
  signed : Bool
  /-- new-value operation of an atomic, by its MINOR code; 7 is CAS -/
  alu : Nat
  space : Space
  sspace : Space
  order : Order
  scope : Scope
  /-- accesses not yet performed -/
  left : List Access
  /-- lanes that the operation has, complete or not -/
  lanes : BitVec 32
  /-- one access for all its lanes (R235) -/
  uniform : Bool
  /-- lanes whose later releases carry it: its own, and after a WB0 every lane of the wave (R138) -/
  carried : BitVec 32
  /-- bit n: counted in Gn; bit 8: counted in OTHER (R87) -/
  ranges : BitVec 9
  /-- when it was issued, in the order of the wave's module -/
  seq : Nat
  /-- how many operations of its class the wave had issued before it (R92) -/
  rank : Nat
  /-- complete, but held on its counter by an older one (R92) -/
  done : Bool
  deriving DecidableEq, Repr

/-- What a release fence or a WAITCNT left on threads: their later stores inside the mask's ranges release (R143, R144).
`inside` none is a fence without a mask; `only` are the sectors of the operations that a WAITCNT awaited, which is all that its
release carries; `after` is the number of the wave's next operation then, so that stores issued before the mark gain nothing from it. -/
structure FenceMark where
  lanes : BitVec 32
  after : Nat
  inside : Option (List Range)
  only : Option (List Nat)
  scope : Scope
  deriving DecidableEq, Repr

/-- A release recorded with a sector (R142, R240): which writes it covers, its scope and its mask. -/
structure ReleaseMark where
  seq : Nat
  scope : Scope
  /-- the ranges of a masked fence, as they stood; none for an unmasked release -/
  inside : Option (List Range)
  /-- the sectors that the release carries where it carries awaited operations only (R144) -/
  only : Option (List Nat)
  deriving DecidableEq, Repr

/-- What a completed load or atomic has read that a later fence or WAITCNT may make an acquire (R143, R144): the releases, each
with its core, that stood on the sector; the lanes that read; the operation's rank in its class; and whether a WAITCNT has awaited it. -/
structure Seen where
  cls : Nat
  rank : Nat
  lanes : BitVec 32
  waited : Bool
  scope : Scope
  va : Nat
  marks : List (Nat × ReleaseMark)
  deriving DecidableEq, Repr

/-- A sector that a completed store or copy of the wave left dirty in its core's L1, until a WAITCNT has awaited it (R144). -/
structure Unawaited where
  cls : Nat
  rank : Nat
  scope : Scope
  sector : Nat
  deriving DecidableEq, Repr

/-- A wait that the head group has already begun and keeps through a pre-emption (R394). -/
inductive Wait where
  /-- until phase `phase` of barrier `key` has completed (R290, R291) -/
  | barrier (key : Nat) (phase : Word)
  /-- an ACQ whose request lies with the grant checker (R62, R295), and what the checker has answered -/
  | grant
  | granted (handle : Word)
  | deferred (handle : Word)
  | exceeded
  /-- an ACQ that found the deferred FIFO full: tested again after the next scan (R64) -/
  | fifoFull
  /-- a TIME that waits for its deadline (R309) -/
  | deadline (until_ : DWord) (x : Fields)
  /-- a wave held whole at a REORD (R38) -/
  | regroup (x : Fields)
  /-- a TSPAWN that has enqueued its first records and waits for room for the others (R305) -/
  | spawning (done : Nat)
  /-- an MXA at step 7 of R264, with the block that it captured at step 2 -/
  | matrix (pb : List Word)
  deriving DecidableEq, Repr

/-- The trap record registers of R379. -/
structure TrapRegs where
  tcause : Word
  tdetail : Word
  toff : Word
  tlanes : Word
  taddr : DWord
  rpc : Word
  hscr0 : Word
  hscr1 : Word
  hscr2 : Word
  hscr3 : Word
  deriving DecidableEq, Repr

def TrapRegs.start : TrapRegs :=
  { tcause := 0, tdetail := 0, toff := 0, tlanes := 0, taddr := 0, rpc := 0, hscr0 := 0, hscr1 := 0, hscr2 := 0, hscr3 := 0 }

/-- V registers that a matrix operation of a context has locked (R81, R264). -/
structure Lock where
  ctx : Nat
  base : Nat
  count : Nat
  deriving DecidableEq, Repr

/-- What a YIELD waits for (R212). -/
structure Yielded where
  mates : List Nat
  left : Nat
  deriving DecidableEq, Repr

/-- A wave. `v` has key 32 × register + lane, `p` key 32 × predicate + lane. -/
structure Wave where
  uid : Nat
  block : Nat
  waveId : Nat
  /-- slice of the cluster, 0-15 (R55), and wave slot of the core (R120) -/
  slice : Nat
  slot : Nat
  lanes : List Lane
  v : Sparse Elem
  s : Sparse Elem
  p : Sparse Pred
  /-- writes to each group of 32 V registers, one granule of the shadowed state (R387) -/
  written : Sparse Nat
  g : List Range
  /-- REG granules held and claimed (R56, R57) -/
  regAlloc : Nat
  regClaim : Nat
  pend : List Pend
  nextOp : Nat
  /-- operations issued so far in each class of R91 -/
  issued : List Nat
  /-- phase number of the most recent arrival per barrier (R287) -/
  arrivals : List (Nat × Word)
  locks : List Lock
  marks : List FenceMark
  seen : List Seen
  wrote : List Unawaited
  wait : Option Wait
  /-- slice cycles that a STALL gap still runs (R177) -/
  stall : Nat
  /-- after a YIELD: the waves still to issue once, and the slice cycles it lasts at most (R212) -/
  yielded : Option Yielded
  trap : TrapRegs
  /-- level privileged: the handler runs (R378) -/
  handler : Bool
  /-- stopped for the debugger (R214) -/
  stopped : Bool
  /-- a CPL met an uncorrectable source: delivered at the next WAITCNT CPL or at retirement (R245) -/
  copyError : Bool
  /-- a write-back that no instruction asked for met an error with bytes of the wave: delivered when it would issue next (R397) -/
  backError : Bool
  /-- no lane left and everything it issued complete (R39, R49) -/
  retired : Bool
  deriving DecidableEq, Repr

/-! ### A block's state -/

/-- The running part of a barrier instance; COUNT stands in the launch record (R287). -/
structure Barrier where
  arr : Nat
  ph : Word
  stat : Word
  last : Word
  deriving DecidableEq, Repr

def Barrier.start : Barrier := { arr := 0, ph := 0, stat := 0, last := 0 }

/-- A 32-bit word of a block's scratchpad, `csp` or core, whose error cannot be corrected (R412). -/
structure SramBad where
  block : Nat
  csp : Bool
  word : Nat
  deriving DecidableEq, Repr

/-- Why a tag is marked failed (R278, R376). -/
inductive TagError where
  | uncorrectable
  | xlate (va : DWord)
  deriving DecidableEq, Repr

/-- A copy tag: chunk map and failed mark (R93, R278). -/
structure Tag where
  map : DWord
  failed : Option TagError
  deriving DecidableEq, Repr

def Tag.start : Tag := { map := 0, failed := none }

/-- One A128 element (R109). -/
structure AccElem where
  k : BitVec 128
  taint : Bool
  deriving DecidableEq, Repr

def AccElem.start : AccElem := { k := 0, taint := false }

/-- An accumulator tile slot; element (r, c) has key 32 r + c (R94, R273). -/
structure Acc where
  e : BitVec 8
  elems : Sparse AccElem
  busy : Bool
  deriving DecidableEq, Repr

def Acc.start : Acc := { e := 0, elems := [], busy := false }

/-- A matrix operation in progress (R264, R265). -/
structure MxOp where
  wave : Nat
  pend : Nat
  /-- the captured parameter block, 16 words -/
  pb : List Word
  /-- lanes of the issuing wave that were live at issue (R262) -/
  live : BitVec 32
  nan : Bool
  range : Bool
  wrap : Bool
  residue : Bool
  preempted : Bool
  /-- sub-tiles in which a flag arose, and whether one arose in the current sub-tile (R267) -/
  count : Nat
  flagged : Bool
  /-- elements of the current sub-tile whose exact sum lies outside the range of K, with the multiple of 2^128 it is off by (R112) -/
  carry : Sparse Int
  deriving DecidableEq, Repr

/-- A matrix context: status register, progress register, operation (R266, R267). -/
structure Ctx where
  status : Word
  progress : Word
  op : Option MxOp
  deriving DecidableEq, Repr

def Ctx.start : Ctx := { status := 0, progress := 0, op := none }

/-- Amounts of the five kinds that a block holds; REG is kept per wave (R54, R57). -/
structure Amounts where
  spm : Nat
  csp : Nat
  acc : Nat
  mxe : Nat
  tag : Nat
  deriving DecidableEq, Repr

def Amounts.none : Amounts := { spm := 0, csp := 0, acc := 0, mxe := 0, tag := 0 }

/-- A resident block. -/
structure Block where
  uid : Nat
  grid : Nat
  /-- linear index (R24); for a task block its first task identifier -/
  lin : Nat
  task : Bool
  cluster : Nat
  core : Nat
  claim : Amounts
  alloc : Amounts
  /-- C0-C15 (R89) -/
  c : List Word
  sp : Sparse Byte
  csp : Sparse Byte
  tags : Sparse Tag
  accs : Sparse Acc
  ctxs : Sparse Ctx
  bb : Sparse Barrier
  /-- writes to each granule of the block's shadowed state (R387): key 4 n of `sp`, 4 n + 1 of `csp`, 4 n + 2 of the accumulators, each n
  4 KiB, and 3 for the rest -/
  writes : Sparse Nat
  opened : Bool
  resume : Word
  /-- epoch of the image that the last completed PFENCE closed (R384) -/
  persisted : Nat
  deriving DecidableEq, Repr

/-! ### Grids -/

/-- A binding of a gate: its number and generation (R45, R333). -/
structure GateRef where
  gate : Nat
  gen : Nat
  deriving DecidableEq, Repr

/-- A task record waiting for the gatherer (R41, R304). -/
structure TaskRecord where
  grid : Nat
  id : Word
  entry : Nat
  addr : DWord
  since : Nat
  deriving DecidableEq, Repr

/-- Records that the gatherer has formed into a task wave, waiting for admission (R41, R42). -/
structure TaskWave where
  grid : Nat
  records : List TaskRecord
  resume : Word
  deriving DecidableEq, Repr

/-- A grid in flight: its launch record (R332), its packet (R331) and its progress. -/
structure Grid where
  id : Nat
  part : Nat
  krec : Nat
  code : Nat
  codesz : Nat
  entry : Nat
  claim : Amounts
  alloc : Amounts
  regClaim : Nat
  regAlloc : Nat
  formats : List Word
  /-- COUNT of BB0-15, CB0-15, GB0-7 in the record's order -/
  counts : List Nat
  ranges : List Range
  slots : List Word
  restart : Bool
  dimX : Nat
  dimY : Nat
  dimZ : Nat
  waves : Nat
  group : Nat
  clusters : Nat
  ogate : Option GateRef
  wgate : Option GateRef
  coop : Bool
  gang : Option Nat
  ticket : Nat
  pass : Word
  dispensers : List Nat
  kconst : Sparse Byte
  ksize : Nat
  /-- queue slot and ring index of its packet; node of a graph -/
  queue : Nat
  index : Word
  node : Option Nat
  /-- blocks admitted so far: the next linear index (R53) -/
  next : Nat
  retired : List Nat
  /-- resident blocks: linear index and cluster; part of the partition state (R392, R413) -/
  placed : List (Nat × Nat)
  /-- resident task waves with their clusters -/
  taskPlaced : List (TaskWave × Nat)
  /-- linear indices that have opened the gate or retired (R45) -/
  opened : List Nat
  lastCluster : Option Nat
  cb : Sparse Barrier
  gb : Sparse Barrier
  topen : Bool
  nextTask : Word
  /-- blocks to be admitted again after a fallback restore, with the RESUME they get (R413) -/
  again : List (Nat × Word)
  /-- the cluster of each cluster group of several blocks that has been admitted, in whole or in part (R23) -/
  homes : List (Nat × Nat)
  /-- it had an admission that could proceed when its queue was last served (R347, R348) -/
  inRace : Bool
  deriving DecidableEq, Repr

/-! ### Copies, caches, homes -/

/-- What a copy in flight is: CPT, CPM, WDQ or a COPY packet (R277, R279, R307, R337). -/
inductive CopyKind where
  | load | store | multi | query | packet | wsload
  deriving DecidableEq, Repr

/-- One receiver of a CPM (R279). -/
structure Receiver where
  block : Nat
  left : List Nat
  /-- its RTAG's map has been set for this delivery (R280) -/
  started : Bool
  deriving DecidableEq, Repr

/-- A copy in flight. `rec` is the captured layout record of eight words (R276); for a packet it is SRC, DST and LEN. -/
structure Copy where
  id : Nat
  kind : CopyKind
  part : Nat
  block : Nat
  wave : Nat
  tag : Nat
  record : List Word
  space : Space
  scope : Scope
  /-- chunks not yet written, and the destination sectors already written of a chunk, or of a receiver's chunk (R147) -/
  left : List Nat
  pieces : List (Nat × Nat)
  ranges : BitVec 9
  /-- CPM: COMMON, slice rows P, STRIDE, RTAG and the receivers -/
  common : Nat
  rows : Nat
  stride : Nat
  rtag : Nat
  receivers : List Receiver
  /-- packet: queue slot and ring index; WDQ: dispenser and `.sp` offset -/
  slot : Nat
  index : Word
  seq : Nat
  deriving DecidableEq, Repr

/-- A dirty sector of one core's L1 (R122): the bytes written and their mask. `first` is the age of its oldest write; `sent`
says that its write-back is on the way to the home. -/
structure Dirty where
  core : Nat
  sector : Nat
  mask : BitVec 32
  data : BitVec 256
  va : Nat
  first : Nat
  /-- the wave that wrote last, and how many writes the L1 has taken (R387, R397) -/
  wave : Nat
  writes : Nat
  sent : Bool
  releases : List ReleaseMark
  deriving DecidableEq, Repr

/-- A clean copy of a sector in one core's L1 (R240), with the virtual address that it was read at. -/
structure Clean where
  core : Nat
  sector : Nat
  va : Nat
  data : BitVec 256
  deriving DecidableEq, Repr

/-- A release whose sector has reached the home: the home still knows which core released it (R142). -/
structure HomeMark where
  core : Nat
  sector : Nat
  releases : List ReleaseMark
  deriving DecidableEq, Repr

/-- A request at a home's hardware queue (R248), with the old values once it is performed. -/
structure Request where
  id : Nat
  home : Nat
  wave : Nat
  op : Nat
  core : Nat
  alu : Nat
  size : Nat
  signed : Bool
  reply : Bool
  accesses : List Access
  order : Order
  scope : Scope
  performed : Bool
  /-- replies not yet delivered: lane, old value, poison -/
  olds : List (Nat × DWord × Bool)
  /-- it arrived while a reload of the service store was pending (R251) -/
  held : Bool
  deriving DecidableEq, Repr

/-- A leaf as a walk finds it (R372): physical page, its size in bits, permissions. -/
structure Leaf where
  page : Nat
  bits : Nat
  r : Bool
  w : Bool
  p : Bool
  deriving DecidableEq, Repr

/-- A cached translation: it covers every address of its leaf's page (R373); `vpage` is a 16 KiB page of them. -/
structure TlbEntry where
  part : Nat
  vpage : Nat
  leaf : Leaf
  deriving DecidableEq, Repr

/-- Who is parked on a replayable fault (R374). -/
inductive Party where
  | wave (uid : Nat)
  | copy (id : Nat)
  | queue (part slot : Nat)
  deriving DecidableEq, Repr

/-- An open fault (R375); `idx` none is a fault that still waits for a buffer entry. -/
structure FaultEntry where
  die : Nat
  idx : Option Nat
  part : Nat
  kind : Nat
  cluster : Nat
  core : Nat
  slot : Nat
  va : Nat
  seq : Word
  party : Party
  deriving DecidableEq, Repr

/-! ### Clusters -/

/-- A request in the grant checker's input queue, or an entry of its deferred FIFO (R62-R66). `entry` is the FIFO number. -/
structure GrantRequest where
  wave : Nat
  kind : Nat
  q : Nat
  dst : Operand
  /-- ACQ.w -/
  waits : Bool
  /-- poison of the handle, from a poisoned guard (R286) -/
  pz : Bool
  entry : Nat
  /-- grants made to newer entries or new requests while it waits (R66) -/
  passed : Nat
  deriving DecidableEq, Repr

/-- The five cluster limits of R55. -/
structure Limits where
  reg : Nat
  spm : Nat
  acc : Nat
  mxe : Nat
  tag : Nat
  deriving DecidableEq, Repr

def Limits.full : Limits := { reg := 4064, spm := 512, acc := 256, mxe := 8, tag := 256 }

/-- The grant checker (R54-R71): what the manual does not give as a view of the residents. -/
structure Gck where
  /-- limits as written, and as they stand while they fall (R55) -/
  written : Limits
  limit : Limits
  queue : List GrantRequest
  fifo : List GrantRequest
  /-- a scan of the FIFO has been started, and one further scan is to follow it (R65) -/
  scan : Bool
  again : Bool
  deriving DecidableEq, Repr

def Gck.start : Gck := { written := .full, limit := .full, queue := [], fifo := [], scan := false, again := false }

/-- A 4 KiB granule of a cluster's shadowed state (R387): of a wave's V registers, the rest of a wave, of a block's scratchpads and
tile slots, the rest of a block, of a core's dirty sectors, and what the cluster holds for itself. Which state shares a granule
is the model's choice (log 11). -/
inductive Granule where
  | regs (wave n : Nat)
  | wave (uid : Nat)
  | spm (block n : Nat)
  | csp (block n : Nat)
  | acc (block n : Nat)
  | block (uid : Nat)
  | l1 (core n : Nat)
  | cluster
  deriving DecidableEq, Repr

/-- A shadow image (R387, R388). -/
structure Image where
  epoch : Nat
  complete : Bool
  /-- closed by the flush of the loss or by the pre-emption that the next resume answers -/
  current : Bool
  waves : List Wave
  blocks : List Block
  dirty : List Dirty
  copies : List Copy
  gck : Gck
  /-- CB barriers of each grid's groups in the cluster -/
  cb : List (Nat × Sparse Barrier)
  /-- the supersession record: dirty sectors written back since the closure (R391) -/
  superseded : List (Nat × Nat)
  /-- requests of the image's waves that have been performed and answered since the closure (R149) -/
  answered : List Request
  deriving DecidableEq, Repr

/-- How a finished voltage request ended (R351). -/
inductive VoltOutcome where
  | done | superseded | clamped
  deriving DecidableEq, Repr

/-- The voltage words of a cluster block (R351, R360). -/
structure Voltage where
  rid : Nat
  mv : Nat
  drid : Nat
  out : VoltOutcome
  vnow : Nat
  /-- Noon's and the thermal ceiling; CEIL is the lesser (R362) -/
  noon : Nat
  thermal : Nat
  pending : Bool
  /-- ns of movement that do not make a millivolt yet -/
  part : Nat
  deriving DecidableEq, Repr

def Voltage.start : Voltage :=
  { rid := 0, mv := 600, drid := 0, out := .done, vnow := 600, noon := 780, thermal := 780,
    pending := false, part := 0 }

/-- The service control store of a cluster (R251, R396). -/
structure Service where
  image : Nat
  next : Option Nat
  deriving DecidableEq, Repr

/-- What a cluster's images hold before any closure: one of them is closed and complete, and there is nothing in it (R387). -/
def Image.blank : Image :=
  { epoch := 0, complete := true, current := false, waves := [], blocks := [], dirty := [], copies := [], gck := .start, cb := [],
    superseded := [], answered := [] }

/-- A cluster. -/
structure Cluster where
  rbl : Nat
  gck : Gck
  volt : Voltage
  clock : DWord
  gated : List Nat
  power : Bool
  imageA : Option Image
  imageB : Option Image
  epoch : Nat
  /-- the flush of the last loss left its image torn (R390) -/
  torn : Bool
  /-- granules dirty for the open image, and for the closed one (R387) -/
  dirtyOpen : List Granule
  dirtyClosed : List Granule
  stallCount : Word
  lastClose : Nat
  service : Service
  /-- KiB that write-behind has copied, and service-warp cycles spent, in this period (R358) -/
  wbUsed : Nat
  svUsed : Nat
  /-- logical cores that physical spare cores stand in for (R400) -/
  spared : Option Nat
  deriving DecidableEq, Repr

def Cluster.start : Cluster :=
  { rbl := 64, gck := .start, volt := .start, clock := 0, gated := [], power := true, imageA := some .blank, imageB := none,
    epoch := 0, torn := false, dirtyOpen := [], dirtyClosed := [], stallCount := 0, lastClose := 0, service := { image := 0, next := none },
    wbUsed := 0, svUsed := 0, spared := none }

/-! ### Partitions -/

/-- The configuration part of a queue control block, words 0-7 (R324). -/
structure QueueConfig where
  seq : Word
  rbase : DWord
  en : Bool
  log2n : Nat
  ticket : Nat
  owner : Word
  deriving DecidableEq, Repr

def QueueConfig.start : QueueConfig := { seq := 0, rbase := 0, en := false, log2n := 0, ticket := 0, owner := 0 }

/-- The lasting part of STATE; idle, running and waiting are views (R324). -/
inductive QueueFlag where
  | ok | faulted | invalid
  deriving DecidableEq, Repr

/-- What a dispatched packet still waits for (R329). -/
inductive Work where
  | grid (id : Nat)
  | copy (id : Nat)
  | graph (table : Nat)
  /-- a TASKS packet whose remaining records wait for room in the task queue (R336) -/
  | records (grid : Nat) (recs : List (List Word))
  /-- nothing: the packet completes at its dispatch -/
  | done
  deriving DecidableEq, Repr

/-- A dispatched packet that has not completed, with its completion actions (R328, R329). -/
structure Flight where
  index : Word
  work : Work
  sig : Bool
  irq : Bool
  tl : Nat
  deriving DecidableEq, Repr

/-- A running COND REPEAT: its packet, how many body packets remain, and N (R339). -/
structure Repeat where
  index : Word
  left : Nat
  total : Nat
  deriving DecidableEq, Repr

/-- A queue slot. -/
structure Queue where
  cfg : QueueConfig
  /-- the last committed image, which the watchdog returns to (R326) -/
  saved : QueueConfig
  /-- EN of the last valid commit (R325, R327) -/
  enabled : Bool
  wridx : Word
  /-- a doorbell write kept while SEQ is odd (R325) -/
  doorbell : Option Word
  rdidx : Word
  flag : QueueFlag
  reason : Nat
  faddr : DWord
  pass : Word
  flights : List Flight
  /-- packets that a COND has told the queue to consume (R339) -/
  skip : Nat
  loop : Option Repeat
  /-- the next quantum that both could use goes to an admission (R345) -/
  admitTurn : Bool
  /-- a COND with ACT WAIT: when its word was last read, and whether the test held (R339) -/
  polled : Option (Nat × Bool)
  /-- eligible when the partition was last served (R347) -/
  inRace : Bool
  deriving DecidableEq, Repr

def Queue.start : Queue :=
  { cfg := .start, saved := .start, enabled := false, wridx := 0, doorbell := none, rdidx := 0, flag := .ok, reason := 0, faddr := 0, pass := 0,
    flights := [], skip := 0, loop := none, admitTurn := false, polled := none, inRace := false }

/-- A generation of a gate (R45, R333). -/
structure Generation where
  gate : Nat
  gen : Nat
  opener : Nat
  isOpen : Bool
  deriving DecidableEq, Repr

/-- A tile dispenser (R306, R334). -/
structure Dispenser where
  grid : Option Nat
  x : Nat
  y : Nat
  i : Nat
  deriving DecidableEq, Repr

def Dispenser.start : Dispenser := { grid := none, x := 0, y := 0, i := 0 }

/-- The queue of one pipe between two blocks of equal linear index (R298-R302). -/
structure Channel where
  endp : Nat
  lin : Nat
  msgs : List Word
  closed : Bool
  deriving DecidableEq, Repr

/-- A GRAPH in progress (R343, R344). -/
structure GraphRun where
  table : Nat
  slot : Nat
  index : Word
  /-- nodes launched whose grids have not completed, and nodes ready to launch -/
  running : List Nat
  ready : List Nat
  /-- nodes whose grids have completed and whose successors are still to be counted -/
  owed : List Nat
  sink : Nat
  sinkDone : Bool
  fault : Bool
  /-- FAULT is still to be written into STATUS -/
  marking : Bool
  deriving DecidableEq, Repr

/-- The translation block (R370). -/
structure Xlate where
  ptroot : DWord
  hbase : DWord
  hsize : Word
  pvbase : DWord
  save : DWord
  frbase : DWord
  fridx : Word
  deriving DecidableEq, Repr

def Xlate.start : Xlate := { ptroot := 0, hbase := 0, hsize := 0, pvbase := 0, save := 0, frbase := 0, fridx := 0 }

/-- The partition block (R352). -/
structure Budget where
  clus : Nat
  tok : Nat
  sus : Nat
  req : Nat
  isOpen : Bool
  tight : Nat
  pused : Nat
  hused : Nat
  peak : Nat
  /-- Noon is lowering the ceilings of the partition's clusters (R359) -/
  throttled : Bool
  deriving DecidableEq, Repr

/-- A partition. -/
structure Part where
  id : Nat
  start : Nat
  domains : Nat
  budget : Budget
  epoch : Nat
  wssz : Nat
  xlate : Xlate
  queues : Sparse Queue
  timelines : Sparse DWord
  gates : List Generation
  dispensers : Sparse Dispenser
  endpoints : List (Nat × Nat)
  channels : List Channel
  tasks : List TaskRecord
  taskWaves : List TaskWave
  arena : Nat
  arenaNext : Nat
  graphs : List GraphRun
  tlast : DWord
  preempted : Bool
  /-- the module lost power, and no resume has been requested yet; the host has recreated the partition since (R393) -/
  lost : Bool
  recreated : Bool
  debugger : Bool
  debugUsed : Nat
  /-- kill records whose ring entry lies at a home without power, with their addresses (R125, R380) -/
  kills : List (Nat × List Word)
  deriving DecidableEq, Repr

/-! ### The module -/

/-- What the control core is told (R375, R380, R349, R341, R344, R360, R364, R397, R325, R396) and MSI-X vectors (R409). -/
inductive CcEvent where
  | fault (die idx : Nat)
  | kill (record : List Word) (ringFailed : Bool)
  | packet (part slot reason : Nat) (faddr : DWord)
  | queueInvalid (part slot : Nat)
  | timelineBackward (part index : Nat) (old new : DWord)
  | underflow (part table node : Nat)
  | voltageDone (cluster rid : Nat) (out : VoltOutcome)
  | thermal (die step : Nat)
  | ecc (place addr part : Nat)
  | serviceRejected (image : Nat)
  | budgetTrap (part : Nat)
  | debug (wave offset : Nat) (code : Word)
  | msix (vector : Nat)
  | tlbiDone (part addr n : Nat)
  deriving DecidableEq, Repr

/-- MSTATE (R408). -/
inductive ScrubState where
  | idle | scrubbing | ready | failed
  deriving DecidableEq, Repr

/-- The scrub-state record, KIND 6 (R406). -/
structure ScrubRecord where
  pending : Bool
  trigger : Nat
  nonce : BitVec 128
  deriving DecidableEq, Repr

/-- What a scrub did with one element: units written, units sampled, mismatches (R407). -/
structure ElementCount where
  written : Nat
  sampled : Nat
  mismatches : Nat
  deriving DecidableEq, Repr

/-- SIG2 of a record as it stands: it verifies, it is zero bytes, or it does not verify (R402, R403). -/
inductive Sig2 where
  | good | zero | bad
  deriving DecidableEq, Repr

/-- The completion record (R407). -/
structure Completion where
  counter : Nat
  trigger : Nat
  status : Nat
  nonce : BitVec 128
  device : BitVec 384
  start : Nat
  finish : Nat
  lease : Nat
  elements : List ElementCount
  sig2 : Sig2
  deriving DecidableEq, Repr

/-- The payload of a configuration record, KIND 1 to 7 (R402-R406); of a base image, its signatures under its signer's keys. -/
inductive Content where
  | identity (generation device : Nat)
  | sparing (parts : List Nat)
  | authority (keys : Keys)
  | lease (id : Nat) (keys : Keys)
  | versions (thadin authority : Nat)
  | scrub (r : ScrubRecord)
  | base (image : Signed)
  deriving DecidableEq, Repr

/-- A configuration record as it stands in the MRAM area (R402). -/
structure Record where
  counter : Nat
  form : RecordForm
  content : Content
  sig1 : Bool
  sig2 : Sig2
  deriving DecidableEq, Repr

/-- The configuration area, the LMS leaf index, the completion record and the state of Matins' locks (R402-R407). -/
structure Security where
  /-- two copies of each kind at most -/
  records : List Record
  lmsIndex : Nat
  completion : Option Completion
  /-- completion records published so far, and the STATUS of the last -/
  published : Nat
  lastStatus : Nat
  locked : Bool
  customerFirmware : Bool
  /-- version of the patch table that Matins has taken (R404) -/
  patched : Option Nat
  deriving DecidableEq, Repr

/-- A Herrum port (R397, R401). -/
structure Port where
  failedLanes : Nat
  retraining : Bool
  down : Bool
  retries : Nat
  deriving DecidableEq, Repr

def Port.start : Port := { failedLanes := 0, retraining := false, down := false, retries := 0 }

/-- The thermal word of a die (R353, R364). -/
structure Thermal where
  step : Nat
  temp : Nat
  deriving DecidableEq, Repr

def Thermal.start : Thermal := { step := 0, temp := 0 }

/-- The activity budgets (R353, R358). -/
structure Activity where
  wb : Nat
  sc : Nat
  pw : Nat
  sv : Nat
  db : Nat
  deriving DecidableEq, Repr

def Activity.start : Activity := { wb := 64, sc := 4096, pw := 2048, sv := 4000, db := 256 }

/-- Error counts of one place (R399). -/
structure ErrorCount where
  corr : Nat
  unc : Nat
  deriving DecidableEq, Repr

def ErrorCount.start : ErrorCount := { corr := 0, unc := 0 }

/-- Registers and records of the module as a whole. -/
structure Module where
  time : Nat
  boot : Nat
  /-- Matins waits in recovery (R411 steps 3 and 6) -/
  recovery : Bool
  mstate : ScrubState
  nonce : BitVec 128
  pkon : Bool
  allow : Nat
  pmod : Nat
  activity : Activity
  scrubbed : Sparse Nat
  /-- walker reads of each die in this period (R358) -/
  walked : Sparse Nat
  /-- units of 32 bytes that a partition's write-backs and copies have moved into HBM in this period (R354) -/
  moved : Sparse Nat
  /-- ends of the microseconds of the last 10 ms whose mean power exceeded 3,600 W (R359) -/
  hot : List Nat
  /-- the instants that time cannot pass before Noon's next tick and the next period boundary have come (R354, R359) -/
  noonDue : Nat
  periodDue : Nat
  /-- module time may be set forward no more (R366) -/
  timeSet : Bool
  thermal : Sparse Thermal
  lock : Bool
  offs : Int
  errors : Sparse ErrorCount
  /-- faults that have occurred on each die: the SEQ of the next (R375) -/
  faultSeq : Sparse Nat
  ports : Sparse Port
  /-- the node identifier, the nodes that the routing table knows, its routes by node and port, and the addresses of each node (R410); the
  routes of a port that is down are withdrawn (R401) -/
  nodeId : Nat
  nodes : List Nat
  routes : List (Nat × Nat)
  apertures : List Aperture
  /-- the service image in the MRAM firmware area (R396, R411) -/
  serviceImage : Nat
  /-- BAR2 by offset (R409) -/
  mailbox : Sparse Byte
  security : Security
  /-- what Matins found at the last power-on; a scrub boots on from it (R408, R411) -/
  found : BootInput
  /-- when the running scrub began and when it ends (R406, R407) -/
  scrubStart : Nat
  scrubEnd : Nat
  /-- spares in use: (0, stack domain) for a pseudo-channel, (1, 8 × die + bank) for a weight-store bank (R400) -/
  spares : List (Nat × Nat)
  /-- partitions that the control core, restarted, is still to pre-empt and resume (R397) -/
  restarts : List Nat
  deriving DecidableEq, Repr

/-! ### Moves and the whole state -/

/-- An error that strikes from outside (R397): one that its check corrects, one in an error unit, which reads as uncorrectable until
R412 has it go, or one that the control core or the host link meets. -/
inductive Upset where
  | corrected (place : Nat)
  /-- a physical address of HBM or MRAM, and a byte of the weight store (die × 48 GiB + …) -/
  | memory (addr : Nat)
  | weight (addr : Nat)
  | spad (e : SramBad)
  /-- a word of a core's L1, by physical address / 4 -/
  | l1 (core word : Nat)
  /-- one lane of a V register, or an S register -/
  | vreg (wave reg lane : Nat)
  | sreg (wave reg : Nat)
  /-- a granule of a cluster's shadow image A or B -/
  | image (cluster : Nat) (b : Bool)
  | tcm
  | hostLink
  deriving DecidableEq, Repr

/-- One move of the machine. The manual leaves the interleaving of its agents open, so the agenda in the state names it:
a wave issues from its head group, an event of the opcode table happens, time passes, with the cycles of each cluster's
oscillator, or an error strikes. -/
inductive Move where
  | issue (wave : Nat)
  | event (i : Instr)
  | tick (ns : Nat) (cycles : List (Nat × Nat))
  | upset (u : Upset)
  deriving DecidableEq, Repr

/-- The state of the module. -/
structure State where
  waves : List Wave
  blocks : List Block
  grids : List Grid
  parts : List Part
  clusters : Sparse Cluster
  /-- physical memory by byte address: HBM, the MRAM window and host memory -/
  mem : List Host.Cell
  /-- physical addresses of bytes whose error unit reads as uncorrectable (R397, R412) -/
  bad : List Nat
  /-- 32-bit words of physical memory that a write-back brought from an L1 word that could not be corrected (R397, R412) -/
  lost : List Nat
  /-- scratchpad words whose check fails (R397, R412) -/
  sramBad : List SramBad
  /-- words of L1 copies whose check fails: core and word address (R397, R412) -/
  l1Bad : List (Nat × Nat)
  /-- weight store: key die × 48 GiB + partition × 3 GiB + byte of the share -/
  ws : Sparse Byte
  wsBad : List Nat
  dirty : List Dirty
  clean : List Clean
  homeMarks : List HomeMark
  requests : List Request
  copies : List Copy
  tlb : List TlbEntry
  faults : List FaultEntry
  events : List CcEvent
  module : Module
  agenda : List Move
  issuing : Nat
  fresh : Nat
  draws : Nat
  /-- how many moves the machine has chosen by itself: what it looks at first goes round (R51; log 1) -/
  turn : Nat
  deriving DecidableEq, Repr

/-- What a byte of memory that nothing has written reads as (log 3). -/
def Memory.unwritten : Byte := 0

/-- The canonical form of memory: addresses strictly rising, no entry equal to what an unlisted address reads as. -/
def Memory.wf (m : List Host.Cell) : Bool := Sparse.isWf Memory.unwritten m

/-- Why the machine stops. -/
inductive Fault where
  /-- An instruction's meaning was asked for while no wave with a head group is issuing. Raised by the meaning of an
  instruction word alone, never by a step, which runs a meaning only for a head group. Safe: the manual gives an
  instruction no effect outside a wave. -/
  | noIssuer
  deriving DecidableEq, Repr

/-- Why an instruction is refused. -/
inductive Refusal where
  /-- The instruction has no meaning in the model. Raised by its arm of `exec`. Safe. -/
  | notModelled (mnemonic : String)
  deriving DecidableEq, Repr

/-- Configuration records before Matins has read any (R402-R407); log 9. -/
def Security.start : Security :=
  { records := [], lmsIndex := 0, completion := none, published := 0, lastStatus := 0, locked := false, customerFirmware := false, patched := none }

/-- Matins has met nothing yet. -/
def metNothing : BootInput :=
  { upTo := 8, romOk := false, identity := none, runtime := none, base := none, patch := none, nodeId := 0, routes := [], apertures := [] }

/-- The module's registers after power-on (R351-R353, R358, R408); logs 5, 6 and 9. -/
def Module.start : Module :=
  { time := 0, boot := 0, recovery := false, mstate := .idle, nonce := 0, pkon := false, allow := 1000, pmod := 0,
    activity := .start, scrubbed := [], walked := [], moved := [], hot := [], noonDue := 1000, periodDue := 10000, timeSet := false, thermal := [], lock := false, offs := 0, errors := [], faultSeq := [], ports := [], nodeId := 0, nodes := [], routes := [],
    apertures := [], serviceImage := 0,
    mailbox := [], security := .start,
    found := metNothing,
    scrubStart := 0, scrubEnd := 0, spares := [], restarts := [] }

/-- The machine right after reset: no partition, no grid, no wave; every register at its reset value; memory lists nothing. -/
def State.reset : State :=
  { waves := [], blocks := [], grids := [], parts := [], clusters := [], mem := [], bad := [], lost := [], sramBad := [], l1Bad := [], ws := [], wsBad := [], dirty := [],
    clean := [], homeMarks := [], requests := [], copies := [], tlb := [], faults := [], events := [], module := .start, agenda := [],
    issuing := 0, fresh := 0, draws := 0, turn := 0 }

end Sys2Proof.Machine
end

