-- ==== Sys2Proof/Machine/Store.lean ====
section
/-! DEFINITION. The one place where each piece of the state is read and written: lookups and updates of waves, blocks, grids,
partitions, clusters, queues and of the register elements of a wave. -/

namespace Sys2Proof.Machine

/-! ### Records of the state by name -/

namespace State

def wave? (s : State) (u : Nat) : Option Wave := s.waves.find? (fun w => w.uid == u)
def block? (s : State) (u : Nat) : Option Block := s.blocks.find? (fun b => b.uid == u)
def grid? (s : State) (g : Nat) : Option Grid := s.grids.find? (fun x => x.id == g)
def part? (s : State) (p : Nat) : Option Part := s.parts.find? (fun x => x.id == p)
def copy? (s : State) (c : Nat) : Option Copy := s.copies.find? (fun x => x.id == c)
def cluster (s : State) (c : Nat) : Cluster := Sparse.get .start s.clusters c

def setWave (s : State) (w : Wave) : State :=
  { s with waves := s.waves.map (fun x => if x.uid = w.uid then w else x) }
def setBlock (s : State) (b : Block) : State :=
  { s with blocks := s.blocks.map (fun x => if x.uid = b.uid then b else x) }
def setGrid (s : State) (g : Grid) : State :=
  { s with grids := s.grids.map (fun x => if x.id = g.id then g else x) }
def setPart (s : State) (p : Part) : State :=
  { s with parts := s.parts.map (fun x => if x.id = p.id then p else x) }
def setCopy (s : State) (c : Copy) : State :=
  { s with copies := s.copies.map (fun x => if x.id = c.id then c else x) }
def setCluster (s : State) (c : Nat) (x : Cluster) : State :=
  { s with clusters := Sparse.set .start s.clusters c x }
def setModule (s : State) (m : Module) : State := { s with module := m }

/-- Apply a change to a wave, if it is resident. -/
def onWave (s : State) (u : Nat) (f : Wave → Wave) : State :=
  match s.wave? u with | some w => s.setWave (f w) | none => s
def onBlock (s : State) (u : Nat) (f : Block → Block) : State :=
  match s.block? u with | some b => s.setBlock (f b) | none => s
def onGrid (s : State) (u : Nat) (f : Grid → Grid) : State :=
  match s.grid? u with | some g => s.setGrid (f g) | none => s
def onPart (s : State) (u : Nat) (f : Part → Part) : State :=
  match s.part? u with | some p => s.setPart (f p) | none => s
def onCluster (s : State) (c : Nat) (f : Cluster → Cluster) : State := s.setCluster c (f (s.cluster c))

/-- Tell the control core. -/
def tell (s : State) (e : CcEvent) : State := { s with events := s.events ++ [e] }

/-- Count an uncorrected error of a place and tell the control core (R399). -/
def noteError (s : State) (place addr part : Nat) : State :=
  let c := Sparse.get ErrorCount.start s.module.errors place
  (s.setModule { s.module with errors := Sparse.set .start s.module.errors place { c with unc := min (c.unc + 1) 0xFFFF } }).tell
    (.ecc place addr part)

/-- The place of a physical address: HBM or MRAM (R397). -/
def placeOfAddr (a : Nat) : Nat := if a / Config.mramBit % 2 = 1 then 2 else 0

/-- Count a corrected error of a place. -/
def noteCorrected (s : State) (place : Nat) : State :=
  let c := Sparse.get ErrorCount.start s.module.errors place
  s.setModule { s.module with errors := Sparse.set .start s.module.errors place { c with corr := min (c.corr + 1) 0xFFFF } }

/-- A fresh identifier and the state after it is taken. It also orders the writes of the module by age. -/
def take (s : State) : Nat × State := (s.fresh, { s with fresh := s.fresh + 1 })

/-- The blocks resident in a cluster, and the waves of a block. -/
def residents (s : State) (c : Nat) : List Block := s.blocks.filter (fun b => b.cluster == c)
def wavesOf (s : State) (b : Nat) : List Wave := s.waves.filter (fun w => w.block == b)

end State

/-- The front end serves the partition: it is not pre-empted, nor lost to a power loss that the host has not answered (R393, R394). -/
def Part.served (p : Part) : Bool := ! p.preempted && (! p.lost || p.recreated)

/-- The queue slot of a partition. -/
def Part.queue (p : Part) (slot : Nat) : Queue := Sparse.get .start p.queues slot
def Part.setQueue (p : Part) (slot : Nat) (q : Queue) : Part := { p with queues := Sparse.set .start p.queues slot q }
def Part.timeline (p : Part) (n : Nat) : DWord := Sparse.get 0 p.timelines n
def Part.setTimeline (p : Part) (n : Nat) (v : DWord) : Part := { p with timelines := Sparse.set 0 p.timelines n v }
def Part.dispenser (p : Part) (n : Nat) : Dispenser := Sparse.get .start p.dispensers n
def Part.setDispenser (p : Part) (n : Nat) (d : Dispenser) : Part :=
  { p with dispensers := Sparse.set .start p.dispensers n d }

/-- Clusters of a partition (R395): the first one and their count. -/
def Part.firstCluster (p : Part) : Nat := p.start * Config.clustersPerDomain
def Part.clusterCount (p : Part) : Nat := p.domains * Config.clustersPerDomain
def Part.hasCluster (p : Part) (c : Nat) : Bool := p.firstCluster ≤ c && c < p.firstCluster + p.clusterCount

/-- Bytes of the partition's share of a die's weight store (R126, R352). -/
def Part.wsBytes (p : Part) : Nat := p.wssz * 2 ^ 25

/-- The backlog in KiB: the dirty data for the open image (R389). -/
def Cluster.backlog (c : Cluster) : Nat := 4 * c.dirtyOpen.length

/-- The die of a cluster: thirty-two clusters each. -/
def dieOfCluster (c : Nat) : Nat := c / (Config.clusters / Config.dies)

/-- The partition that a cluster belongs to. -/
def State.partOfCluster (s : State) (c : Nat) : Option Part := s.parts.find? (fun p => p.hasCluster c)

/-! ### Lanes and registers of a wave -/

/-- A lane that was never launched (R25). -/
def Lane.absent : Lane :=
  { state := .absent, pc := 0, held := false, frozen := false, stack := [], spilled := 0, task := 0, group := 0, member := 0 }

namespace Wave

def lane (w : Wave) (l : Nat) : Lane := w.lanes.getD l .absent

/-- Change the lanes that `p` names. -/
def mapLanes (w : Wave) (p : Nat → Bool) (f : Nat → Lane → Lane) : Wave :=
  { w with lanes := w.lanes.mapIdx (fun l x => if p l then f l x else x) }

def isLive (w : Wave) (l : Nat) : Bool := (w.lane l).state == .live

/-- Live lanes in ascending order. -/
def liveLanes (w : Wave) : List Nat := (List.range 32).filter w.isLive

/-- A lane that takes part in issue: live and not frozen by a trap (R28, R378). -/
def present (w : Wave) (l : Nat) : Bool := w.isLive l && ! (w.lane l).frozen

/-- The present lanes in ascending order. -/
def presentLanes (w : Wave) : List Nat := (List.range 32).filter w.present

/-- Lanes that may be in the head group: present and not held (R28, R31). -/
def ready (w : Wave) (l : Nat) : Bool := w.present l && ! (w.lane l).held

/-- The lanes that the head group is taken from: the unheld ones, or all once every present lane is held (R28, R31). -/
def candidates (w : Wave) : List Nat :=
  let r := (List.range 32).filter w.ready
  if r.isEmpty then w.presentLanes else r

/-- The head group's counter: the lowest of them (R28). -/
def headPc (w : Wave) : Option Nat := (w.candidates.map (fun l => (w.lane l).pc)).min?

/-- Every present lane is held (R31). -/
def allHeld (w : Wave) : Bool := (List.range 32).all (fun l => ! w.ready l)

/-- The lanes of the head group (R28); where every lane is held, all of them, at whatever address (R31). -/
def headLanes (w : Wave) : List Nat :=
  match w.headPc with
  | some pc => w.candidates.filter (fun l => w.allHeld || (w.lane l).pc == pc)
  | none => []

def readV (w : Wave) (r l : Nat) : Elem := Sparse.get .start w.v (32 * r + l)

/-- Write one lane of a V register; the write counts for its granule, whatever it changes (R387). -/
def writeV (w : Wave) (r l : Nat) (e : Elem) : Wave :=
  { w with v := Sparse.set .start w.v (32 * r + l) e, written := Sparse.set 0 w.written (r / 32) (Sparse.get 0 w.written (r / 32) + 1) }
def readS (w : Wave) (r : Nat) : Elem := Sparse.get .start w.s r
def writeS (w : Wave) (r : Nat) (e : Elem) : Wave := { w with s := Sparse.set .start w.s r e }

/-- P7 reads true and discards writes (R72). -/
def readP (w : Wave) (n l : Nat) : Pred := if n = 7 then { val := true, pz := false } else Sparse.get .start w.p (32 * n + l)
def writeP (w : Wave) (n l : Nat) (e : Pred) : Wave :=
  if n = 7 then w else { w with p := Sparse.set .start w.p (32 * n + l) e }

/-- An outstanding counter (R91, R92): the operations of a class that still count. -/
def counter (w : Wave) (cls : Nat) : Nat := (w.pend.filter (fun p => p.cls == some cls)).length

def pend? (w : Wave) (op : Nat) : Option Pend := w.pend.find? (fun p => p.id == op)
def setPend (w : Wave) (p : Pend) : Wave := { w with pend := w.pend.map (fun x => if x.id = p.id then p else x) }

end Wave

/-- Within a class, done operations leave the counter only when every older one has (R92). -/
def dropDone (cls : Nat) : List Pend → List Pend
  | [] => []
  | p :: t => if p.cls = some cls then (if p.done then dropDone cls t else p :: t) else p :: dropDone cls t

/-- Complete an operation: it leaves its range counts at once and its counter under R92. -/
def Wave.complete (w : Wave) (op : Nat) : Wave :=
  match w.pend? op with
  | none => w
  | some p =>
    match p.cls with
    | none => { w with pend := w.pend.filter (fun x => x.id != op) }
    | some c => { w with pend := dropDone c (w.setPend { p with left := [], done := true }).pend }

/-- A lane set as a mask, and back. -/
def maskOf (ls : List Nat) : BitVec 32 := ls.foldl (fun m l => m ||| BitVec.twoPow 32 l) 0
def lanesOf (m : BitVec 32) : List Nat := (List.range 32).filter (fun l => m.getLsbD l)

/-- The module-wide index of a block's core. -/
def Block.coreIndex (b : Block) : Nat := b.cluster * Config.coresPerCluster + b.core

/-- A write to a granule of the block's shadowed state counts, whatever it changes (R387). -/
def Block.wrote (b : Block) (k : Nat) : Block := { b with writes := Sparse.set 0 b.writes k (Sparse.get 0 b.writes k + 1) }

def Block.tag (b : Block) (n : Nat) : Tag := Sparse.get .start b.tags n
def Block.setTag (b : Block) (n : Nat) (t : Tag) : Block := { b with tags := Sparse.set .start b.tags n t }.wrote 3
def Block.acc (b : Block) (n : Nat) : Acc := Sparse.get .start b.accs n

/-- Write parts of a tile slot: the quarters `qs` of it, eight rows each. -/
def Block.putAcc (b : Block) (n : Nat) (a : Acc) (qs : List Nat) : Block :=
  qs.foldl (fun b q => b.wrote (4 * (4 * n + q) + 2)) { b with accs := Sparse.set .start b.accs n a }

/-- Write a whole tile slot. -/
def Block.setAcc (b : Block) (n : Nat) (a : Acc) : Block := b.putAcc n a [0, 1, 2, 3]
def Block.ctx (b : Block) (n : Nat) : Ctx := Sparse.get .start b.ctxs n
def Block.setCtx (b : Block) (n : Nat) (c : Ctx) : Block := { b with ctxs := Sparse.set .start b.ctxs n c }.wrote 3

end Sys2Proof.Machine
end

