-- ==== Sys2Proof/Machine/Time.lean ====
section
/-! DEFINITION. Time: TIME of a partition, how far module time may go before a due event, and what follows its passing: rails that
move, requests that finish, TLAST (R354, R359-R362, R365-R367, R392). -/

namespace Sys2Proof.Machine

/-! ### TIME -/

/-- The partition's epoch has come. An EPOCH of 2^63 or more is one that a resume has set before module time 0 (R367). -/
def State.begun (s : State) (p : Part) : Bool := decide (p.epoch ≤ s.module.time) || decide (2 ^ 63 ≤ p.epoch)

/-- TIME of a partition: the replica minus EPOCH, modulo 2^64; 0 before the epoch (R367). Every cluster's replica shows module time
itself (R150, R365; log 5). -/
def State.timeOf (s : State) (p : Part) : Nat :=
  if s.begun p then (s.module.time + (2 ^ 64 - p.epoch % 2 ^ 64)) % 2 ^ 64 else 0

/-! ### Voltage (R360-R362) -/

/-- The target of a request. -/
def Voltage.target (v : Voltage) : Nat := min (max v.mv 450) 780

/-- CEIL: the lesser of Noon's and the thermal ceiling (R362). -/
def Voltage.ceil (v : Voltage) : Nat := min v.noon v.thermal

/-- Where the rail moves to. -/
def Voltage.goal (v : Voltage) : Nat := min v.target v.ceil

/-- RAMP: the rail is moving. -/
def Voltage.ramping (v : Voltage) : Bool := v.vnow != v.goal

/-- The rail after `ns` nanoseconds at 10 mV/µs. -/
def Voltage.move (v : Voltage) (ns : Nat) : Voltage :=
  if ! v.ramping then { v with part := 0 }
  else
    let n := (v.part + ns) / 100
    let next := if v.vnow ≤ v.goal then min v.goal (v.vnow + n) else max v.goal (v.vnow - n)
    { v with vnow := next, part := if next = v.goal then 0 else (v.part + ns) % 100 }

/-- The rail's goal has changed from what it was in `old`: one that sets off, or turns round, moves its first millivolt in 100 ns (R360). -/
def Voltage.turned (old new : Voltage) : Voltage :=
  if old.ramping && decide (old.vnow < old.goal) == decide (new.vnow < new.goal) then new else { new with part := 0 }

/-- How a request ends whose rail has reached min(target, CEIL) (R360). -/
def Voltage.outcome (v : Voltage) : VoltOutcome := if 450 ≤ v.mv ∧ v.mv ≤ 780 ∧ v.target ≤ v.ceil then .done else .clamped

/-- A running request finishes: VSTAT takes it, and VDONE is raised (R360). -/
def State.finishVolt (s : State) (cl : Nat) (o : VoltOutcome) : State :=
  let v := (s.cluster cl).volt
  (s.onCluster cl (fun c => { c with volt := { c.volt with drid := c.volt.rid, out := o, pending := false } })).tell
    (.voltageDone cl v.rid o)

/-- Requests whose rail stands at min(target, CEIL) finish (R360, R362). -/
def State.settleVolts (s : State) : State :=
  ((s.clusters.map Prod.fst).filter (fun cl => (s.cluster cl).volt.pending && ! (s.cluster cl).volt.ramping)).eraseDups.foldl (fun s cl =>
    s.finishVolt cl (s.cluster cl).volt.outcome) s

/-! ### How far time goes -/

/-- The instant that module time cannot pass before Noon's tick or the period boundary that is due there (R354, R359). -/
def State.due (s : State) : Nat := min s.module.noonDue s.module.periodDue

/-- The CC has written TLAST through within the last 64,000 ns (R392). -/
def Part.keepLast (s : State) (p : Part) : Part :=
  if ! p.lost && decide (p.tlast.toNat + 64000 ≤ s.timeOf p) then { p with tlast := BitVec.ofNat 64 (s.timeOf p) } else p

/-- Module time stands at `t`: the rails have moved since, requests whose rail has arrived finish, and TLAST follows. -/
def State.setTime (s : State) (t : Nat) : State :=
  let dt := t - s.module.time
  let s := s.setModule { s.module with time := t }
  let s := { s with clusters := s.clusters.map (fun (e : Nat × Cluster) => (e.1, { e.2 with volt := e.2.volt.move dt })) }
  { s.settleVolts with parts := s.parts.map (Part.keepLast s) }

/-- Let module time reach at least `t`, as far as nothing is due before; it never steps back (R366). -/
def State.reach (s : State) (t : Nat) : State := s.setTime (max s.module.time (min t s.due))

/-- Module time can come to `t` before anything else is due. -/
def State.canReach (s : State) (t : Nat) : Bool := decide (t ≤ max s.module.time s.due)

/-- The instant of module time at which TIME of a partition is `t`. -/
def State.instantOf (s : State) (p : Part) (t : Nat) : Nat :=
  if s.begun p then s.module.time + (t - s.timeOf p) else p.epoch + t

/-- Let TIME of a partition reach at least `t`. -/
def State.reachTime (s : State) (p : Part) (t : Nat) : State := s.reach (s.instantOf p t)

def State.canReachTime (s : State) (p : Part) (t : Nat) : Bool := s.canReach (s.instantOf p t)

end Sys2Proof.Machine
end

