-- ==== Sys2Proof/Machine/Memory.lean ====
section
/-! DEFINITION. Memory: bytes and error units, translation, the L1 of each core with its dirty and clean sectors, the homes,
promotion, and the scratchpads, constants and weight store (R117-R134, R142, R371-R373, R412). -/

namespace Sys2Proof

/-- Scopes at `.cl` or wider (R2). -/
def Scope.wideCl : Scope → Bool
  | .bk | .wv => false
  | _ => true

/-- Scopes at `.sd` or wider (R2). -/
def Scope.wideSd : Scope → Bool
  | .sd | .gd | .sy => true
  | _ => false

end Sys2Proof

namespace Sys2Proof.Machine

/-! ### Numbers in bytes -/

/-- Little-endian value of a byte list (R3). -/
def bytesToNat : List Byte → Nat
  | [] => 0
  | b :: t => b.toNat + 256 * bytesToNat t

/-- Low `n` bytes of a value, little-endian. -/
def natToBytes (n v : Nat) : List Byte :=
  match n with
  | 0 => []
  | k + 1 => BitVec.ofNat 8 v :: natToBytes k (v / 256)

/-- The 32-bit words of a value, low word first. -/
def wordsOf (n v : Nat) : List Word := (List.range n).map (fun i => BitVec.ofNat 32 (v >>> (32 * i)))

/-- The value of a list of words, low word first. -/
def natOfWords : List Word → Nat
  | [] => 0
  | w :: t => w.toNat + 2 ^ 32 * natOfWords t

/-- Read an `n`-bit pattern as a signed number. -/
def signed (n v : Nat) : Int := if v % 2 ^ n < 2 ^ (n - 1) then (v % 2 ^ n : Nat) else (v % 2 ^ n : Nat) - (2 ^ n : Nat)

/-! ### Physical bytes -/

/-- The error unit of a byte: a 32-byte sector of HBM or a 64-byte codeword of MRAM (R412). -/
def errorUnit (a : Nat) : Nat :=
  if a / Config.mramBit % 2 = 1 then a / 64 * 64 else a / 32 * 32

def unitSize (a : Nat) : Nat := if a / Config.mramBit % 2 = 1 then 64 else 32

namespace State

def byte (s : State) (a : Nat) : Byte := Sparse.get Memory.unwritten s.mem a

/-- A byte that reads as uncorrectable: its unit does, or its word came so from an L1 (R412). -/
def isBad (s : State) (a : Nat) : Bool := s.bad.any (fun b => errorUnit b == errorUnit a) || s.lost.contains (a / 4)

/-- What a read of one byte delivers; a byte of a bad unit has no stated value (log 4). -/
def load (s : State) (a : Nat) : Byte := if s.isBad a then Config.freeByte (s.draws + a) else s.byte a

def loadBytes (s : State) (a n : Nat) : List Byte := (List.range n).map (fun i => s.load (a + i))

/-- Write one byte, keeping the error marks. -/
def storeByte (s : State) (a : Nat) (b : Byte) : State := { s with mem := Sparse.set Memory.unwritten s.mem a b }

def storeEach (s : State) : List (Nat × Byte) → State
  | [] => s
  | (a, b) :: t => (s.storeByte a b).storeEach t

/-- Write bytes in one access: a unit, and a lost word, that is covered whole is clean again (R412). -/
def writeCells (s : State) (cells : List (Nat × Byte)) : State :=
  let covered := fun (a n : Nat) => (List.range n).all (fun i => cells.any (fun c => c.1 == a + i))
  { s.storeEach cells with bad := s.bad.filter (fun u => ! covered (errorUnit u) (unitSize u))
                           lost := s.lost.filter (fun w => ! covered (4 * w) 4) }

def writeBytes (s : State) (a : Nat) (bs : List Byte) : State := s.writeCells (bs.mapIdx (fun i b => (a + i, b)))

end State

/-! ### Translation -/

/-- What a walk finds (R371-R374). -/
inductive Walk where
  | leaf (l : Leaf)
  /-- V = 0: replayable unless NR -/
  | missing (replayable : Bool)
  /-- PT_FORMAT with its level -/
  | malformed (level : Nat)
  /-- the entry's unit cannot be read (R397) -/
  | uncorrectable
  /-- the walker has spent its budget: the walk waits for the next period (R358) -/
  | held
  deriving DecidableEq, Repr

/-- A page-table entry's physical address (R372). -/
def pteAddr (e : Nat) : Nat := e / 2 ^ 14 % 2 ^ 42 * 2 ^ 14

/-- A leaf entry at a level whose page has `bits` address bits (R372, R409). -/
def leafOf (level bits e : Nat) : Walk :=
  let p := e.testBit 4
  let mram := e.testBit 55
  if level = 0 || pteAddr e % 2 ^ bits != 0 || (p && level == 1) || p != mram then .malformed level
  else .leaf { page := pteAddr e, bits := bits, r := e.testBit 2, w := e.testBit 3, p := p }

/-- One level of the walk after another; `shift` is the lowest index bit of the level (R371). -/
def walkLevels (s : State) (va : Nat) (table : Nat) : List (Nat × Nat) → Walk
  | [] => .missing false
  | (level, shift) :: rest =>
    let a := table + 8 * (va / 2 ^ shift % 2048)
    if s.isBad a then .uncorrectable
    else
      let e := bytesToNat (s.loadBytes a 8)
      if ! e.testBit 0 then .missing (! e.testBit 5)
      else if e / 2 ^ 6 % 2 ^ 8 != 0 || e / 2 ^ 56 % 2 ^ 8 != 0 then .malformed level
      else if e.testBit 1 then leafOf level shift e
      else if level = 3 then .malformed level
      else walkLevels s va (pteAddr e) rest

/-- The physical address under a leaf. -/
def Leaf.phys (l : Leaf) (va : Nat) : Nat := l.page + va % 2 ^ l.bits

/-- Host memory (R409). -/
def inHost (a : Nat) : Bool := a / Config.hostBit % 2 == 1 && a / Config.mramBit % 2 == 0

/-- An HBM address. -/
def inHbm (a : Nat) : Bool := a / Config.mramBit % 2 == 0 && a / Config.hostBit % 2 == 0

/-- The node of another module that an address lies on (R410; log 71). -/
def State.nodeOf (s : State) (a : Nat) : Option Nat :=
  ((s.module.apertures.find? (fun (r : Aperture) => decide (r.base ≤ a ∧ a < r.base + r.len))).map Aperture.node).filter (· != s.module.nodeId)

/-- No route leads to the address: its node is unknown to the routing table (R410). -/
def State.unrouted (s : State) (a : Nat) : Bool := (s.nodeOf a).any (fun n => ! s.module.nodes.contains n)

/-- The ports carry traffic to a node: module time is locked, and a route is there whose port does not retrain (R369, R401). -/
def State.carried (s : State) (node : Nat) : Bool :=
  s.module.lock && s.module.routes.any (fun r => r.1 == node && ! (Sparse.get .start s.module.ports r.2).retraining)

/-- The walk of R371 in a partition's tables; a page on an unknown node faults with XLATE (R410). -/
def walk (s : State) (p : Part) (va : Nat) : Walk :=
  match walkLevels s va p.xlate.ptroot.toNat [(0, 47), (1, 36), (2, 25), (3, 14)] with
  | .leaf l => if s.unrouted (l.phys va) then .missing false else .leaf l
  | w => w

/-- The first entry of a walk that cannot be read. -/
def badEntry (s : State) (va : Nat) (table : Nat) : List Nat → Nat
  | [] => table
  | shift :: rest =>
    let a := table + 8 * (va / 2 ^ shift % 2048)
    if s.isBad a then a else badEntry s va (pteAddr (bytesToNat (s.loadBytes a 8))) rest

/-- Where the walk of an address meets its error (R397). -/
def Part.badEntry (p : Part) (s : State) (va : Nat) : Nat := Machine.badEntry s va p.xlate.ptroot.toNat [47, 36, 25, 14]

/-- Entries that a walk reads, as far as it gets. -/
def walkCost (s : State) (va : Nat) (table : Nat) : List Nat → Nat
  | [] => 0
  | shift :: rest =>
    let a := table + 8 * (va / 2 ^ shift % 2048)
    if s.isBad a then 1
    else
      let e := bytesToNat (s.loadBytes a 8)
      1 + (if e.testBit 0 && ! e.testBit 1 then walkCost s va (pteAddr e) rest else 0)

/-- The die whose walker serves the front end for a partition: its first one (log 52). -/
def Part.feDie (p : Part) : Nat := dieOfCluster p.firstCluster

/-- The walker of a die has spent ACTPW (R358). -/
def State.walkerSpent (s : State) (die : Nat) : Bool := decide (s.module.activity.pw ≤ Sparse.get 0 s.module.walked die)

/-- A cached translation of the partition that covers the address. -/
def TlbEntry.covers (e : TlbEntry) (p va : Nat) : Bool := e.part == p && e.vpage * 2 ^ 14 / 2 ^ e.leaf.bits == va / 2 ^ e.leaf.bits

/-- The translation that an access uses: a walk by the die's walker, or a cached entry; where one is still held whose entry has since
changed, either (R373; log 8 names the choice). -/
def lookup (s : State) (p : Part) (die va : Nat) : Walk :=
  let es := s.tlb.filter (fun e => e.covers p.id va)
  let fresh := fun (_ : Unit) => if s.walkerSpent die then Walk.held else walk s p va
  match es with
  | [] => fresh ()
  | _ =>
    let w := walk s p va
    match es.find? (fun e => w != .leaf e.leaf) with
    | none => w
    | some e => if Config.staleTlb s.draws (va / 2 ^ 14) then .leaf e.leaf
                else if es.any (fun e => w == .leaf e.leaf) then w else fresh ()

/-- An access has used a page, or has met a fault at it: a walk was made and counted, whatever it found, unless the translation was cached;
a valid leaf is cached (R358, R371, R373). -/
def State.touchPage (s : State) (p : Part) (die va : Nat) : State :=
  let n := walkCost s va p.xlate.ptroot.toNat [47, 36, 25, 14]
  let count := fun (s' : State) =>
    s'.setModule { s'.module with walked := Sparse.set 0 s'.module.walked die (Sparse.get 0 s'.module.walked die + n) }
  match lookup s p die va with
  | .held => s
  | .leaf l =>
    if s.tlb.any (fun e => e.covers p.id va && e.leaf == l) then s
    else count { s with tlb := { part := p.id, vpage := va / 2 ^ 14, leaf := l } :: s.tlb }
  | _ => count s

/-- The pages that `n` bytes from `va` lie in, by an address in each. -/
def pagesOf (va n : Nat) : List Nat :=
  (List.range (if n = 0 then 0 else (va + n - 1) / 2 ^ 14 - va / 2 ^ 14 + 1)).map (fun i => max va ((va / 2 ^ 14 + i) * 2 ^ 14))

/-- Every page of a span has been used. -/
def State.touchSpan (s : State) (p : Part) (die va n : Nat) : State := (pagesOf va n).foldl (fun s a => s.touchPage p die a) s

/-- The entry covers a byte of [addr, addr + n × 16 KiB), counted in whole pages; any does for n = 0 (R385). -/
def TlbEntry.meets (e : TlbEntry) (addr n : Nat) : Bool :=
  n == 0 || (e.vpage * 2 ^ 14 / 2 ^ e.leaf.bits * 2 ^ e.leaf.bits < addr + n * 2 ^ 14
    && addr / 2 ^ 14 * 2 ^ 14 < (e.vpage * 2 ^ 14 / 2 ^ e.leaf.bits + 1) * 2 ^ e.leaf.bits)

/-- TLBI: drop the partition's cached entries that cover any of `n` pages from `addr`, all of them for n = 0 (R385). -/
def State.dropTlb (s : State) (p addr n : Nat) : State := { s with tlb := s.tlb.filter (fun e => ! (e.part == p && e.meets addr n)) }

/-- Size of the private window (R120). -/
def pvWindow : Nat := 2 ^ 36

/-- The access touches the partition's private window. -/
def inPrivate (p : Part) (va n : Nat) : Bool :=
  p.xlate.pvbase.toNat < va + n && va < p.xlate.pvbase.toNat + pvWindow

/-- A private offset's global address (R120). -/
def pvAddr (p : Part) (g m o : Nat) : Nat :=
  p.xlate.pvbase.toNat + g * 2 ^ 21 + o / 4 * 128 + m * 4 + o % 4

/-! ### Sectors in the L1s and at the homes -/

/-- The address lies in a range (R87). -/
def Range.has (r : Range) (a : Nat) : Bool := r.base.toNat ≤ a && a < r.limit.toNat

/-- The bytes from `a` overlap the range. -/
def Range.overlaps (r : Range) (a n : Nat) : Bool := (List.range n).any (fun i => r.has (a + i))

/-- The home of a byte among a partition's clusters (R122; log 7 for the hash). -/
def homeOf (p : Part) (a : Nat) : Nat := p.firstCluster + Config.homeHash (a / 4096) % p.clusterCount

/-- An access of the address need not wait: host memory has no home (R409), another module's is reached through the ports (R369, R401,
R410), and every other address needs its home cluster's power (R125). -/
def State.homeUp (s : State) (p : Part) (a : Nat) : Bool :=
  if inHost a then true
  else match s.nodeOf a with
    | some n => s.carried n
    | none => (s.cluster (homeOf p a)).power

/-- The byte of a sector's data. -/
def sectorByte (data : BitVec 256) (i : Nat) : Byte := data.extractLsb' (8 * i) 8

/-- Put one byte into a sector's data. -/
def setSectorByte (data : BitVec 256) (i : Nat) (b : Byte) : BitVec 256 :=
  (data &&& ~~~ (BitVec.ofNat 256 (255 * 2 ^ (8 * i)))) ||| BitVec.ofNat 256 (b.toNat * 2 ^ (8 * i))

namespace State

def dirtyOf (s : State) (core sector : Nat) : Option Dirty :=
  s.dirty.find? (fun d => d.core == core && d.sector == sector)

/-- The DE bit as core `core` meets it: another core holds the sector dirty (R123). -/
def elsewhere (s : State) (core sector : Nat) : Bool := s.dirty.any (fun d => d.sector == sector && d.core != core)

def cleanOf (s : State) (core sector : Nat) : Option Clean :=
  s.clean.find? (fun d => d.core == core && d.sector == sector)

def dropClean (s : State) (p : Clean → Bool) : State := { s with clean := s.clean.filter (fun d => ! p d) }

/-- Discard the clean copies of a core (R240). -/
def discard (s : State) (core : Nat) : State := s.dropClean (fun d => d.core == core)

/-- A byte as a core sees it through its L1: its own dirty bytes, else its clean copy, else the home's (R122, R123). -/
def viewByte (s : State) (core a : Nat) : Byte :=
  match s.dirtyOf core (a / 32) with
  | some d => if d.mask.getLsbD (a % 32) then sectorByte d.data (a % 32)
              else match s.cleanOf core (a / 32) with
                   | some c => sectorByte c.data (a % 32)
                   | none => s.load a
  | none => match s.cleanOf core (a / 32) with
            | some c => sectorByte c.data (a % 32)
            | none => s.load a

/-- The byte lies in the core's L1: in its dirty bytes or in a clean copy. -/
def inL1 (s : State) (core a : Nat) : Bool :=
  (s.dirtyOf core (a / 32)).any (fun d => d.mask.getLsbD (a % 32)) || (s.cleanOf core (a / 32)).isSome

/-- The byte cannot be corrected: in its unit at the home or, where the L1 has it, in the L1's word (R397, R412). -/
def viewBad (s : State) (core a : Nat) : Bool :=
  if s.inL1 core a then s.l1Bad.contains (core, a / 4) else s.isBad a

/-- Words of an L1 that are written or filled whole carry no error any more (R412). -/
def cleanL1 (s : State) (core : Nat) (p : Nat → Bool) : State :=
  { s with l1Bad := s.l1Bad.filter (fun e => ! (e.1 == core && p e.2)) }

/-- Keep a clean copy of a sector that a load read (R240). -/
def keepClean (s : State) (core sector va : Nat) : State :=
  if (s.cleanOf core sector).isSome || (List.range 32).any (fun i => s.isBad (32 * sector + i)) then s
  else
    let data := (List.range 32).foldl (fun x i => setSectorByte x i (s.byte (32 * sector + i))) (0 : BitVec 256)
    { s.cleanL1 core (fun w => w / 8 == sector && ! s.inL1 core (4 * w)) with clean := Clean.mk core sector va data :: s.clean }

end State

/-- Insert a dirty sector so that cores ascend: simultaneous write-backs then merge in the order of R123. -/
def insertDirty (d : Dirty) : List Dirty → List Dirty
  | [] => [d]
  | e :: t => if d.core < e.core then d :: e :: t else e :: insertDirty d t

namespace State

/-- Write one byte of a wave into a core's L1 (R122): the sector becomes dirty there, marked with the address and the age of its
oldest write. -/
def dirtyByte (s : State) (core wave a va age : Nat) (b : Byte) : State :=
  match s.dirtyOf core (a / 32) with
  | some d =>
    let d' := { d with mask := d.mask ||| BitVec.twoPow 32 (a % 32), data := setSectorByte d.data (a % 32) b, wave := wave,
                       writes := d.writes + 1 }
    { s with dirty := s.dirty.map (fun x => if x.core = core ∧ x.sector = a / 32 then d' else x) }
  | none =>
    { s with dirty := insertDirty { core := core, sector := a / 32, mask := BitVec.twoPow 32 (a % 32),
                                    data := setSectorByte 0 (a % 32) b, va := va / 32 * 32, first := age, wave := wave, writes := 1,
                                    sent := false, releases := [] } s.dirty }

/-- Write bytes of a wave, each with its virtual address, into a core's L1 in one access (R122). -/
def dirtyBytes (s : State) (core wave age : Nat) (cells : List (Nat × Nat × Byte)) : State :=
  (cells.foldl (fun s c => s.dirtyByte core wave c.1 c.2.1 age c.2.2) s).cleanL1 core (fun w =>
    (List.range 4).all (fun i => cells.any (fun c => c.1 == 4 * w + i)))

/-- Record a release with a core's dirty sector (R142, R240). -/
def markRelease (s : State) (core sector : Nat) (m : ReleaseMark) : State :=
  { s with dirty := s.dirty.map (fun d => if d.core = core ∧ d.sector = sector then { d with releases := d.releases ++ [m] } else d) }

/-- A closed image that still holds the sector notes that it has been written back since (R391). -/
def supersede (i : Image) (core sector : Nat) : Image :=
  if i.complete && i.dirty.any (fun d => d.core == core && d.sector == sector) && ! i.superseded.contains (core, sector)
  then { i with superseded := (core, sector) :: i.superseded } else i

/-- The bytes of a dirty sector, as a write-back carries them (R122). -/
def dirtyCells (d : Dirty) : List (Nat × Byte) :=
  (lanesOf d.mask).map (fun i => (32 * d.sector + i, sectorByte d.data i))

/-- The words of a dirty sector that the L1 cannot read and that hold bytes to write back (R397). -/
def badWords (s : State) (d : Dirty) : List Nat :=
  (s.l1Bad.filter (fun (e : Nat × Nat) => e.1 == d.core && e.2 / 8 == d.sector
    && (List.range 4).any (fun i => d.mask.getLsbD (4 * e.2 % 32 + i)))).map Prod.snd

/-- A write-back arrives at the home and merges byte by byte (R123): the core holds the sector dirty no longer, the home
keeps its release marks beside those it has (R142), and closed images note the supersession (R391). A word that the L1 could not
read arrives as one that cannot be corrected, and the rest of its unit is clean (R412; log 60). -/
def writeBack (s : State) (d : Dirty) : State :=
  let lost := s.badWords d
  let s := (s.writeCells (dirtyCells d)).cleanL1 d.core (fun w => w / 8 == d.sector)
  let s := { s with lost := lost ++ s.lost.filter (fun w => ! lost.contains w) }
  let marks : List HomeMark :=
    if d.releases.isEmpty then [] else [{ core := d.core, sector := d.sector, releases := d.releases }]
  let s := { s with
    dirty := s.dirty.filter (fun x => ! (x.core == d.core && x.sector == d.sector))
    clean := s.clean.filter (fun x => ! (x.core == d.core && x.sector == d.sector))
    homeMarks := marks ++ s.homeMarks.filter (fun m => ! marks.contains m) }
  s.onCluster (d.core / Config.coresPerCluster) (fun c =>
    { c with imageA := c.imageA.map (supersede · d.core d.sector), imageB := c.imageB.map (supersede · d.core d.sector) })

/-- The cluster's partition stands pre-empted, or waits for a resume after a loss: its state stands in an image (R393, R394). -/
def isStopped (s : State) (cl : Nat) : Bool := (s.partOfCluster cl).any (fun p => p.preempted || p.lost)

/-- The core's L1 can write back: its tile has power and is not stopped. The sectors that a stopped or dark tile holds dirty stay
marked at their homes until it is restored (R123, R125, R391). -/
def l1Up (s : State) (core : Nat) : Bool :=
  (s.cluster (core / Config.coresPerCluster)).power && ! s.isStopped (core / Config.coresPerCluster)

/-- The dirty sectors that `p` names and that can be written back: their L1 can, and their home has power. -/
def sendable (s : State) (part : Part) (p : Dirty → Bool) : List Dirty :=
  s.dirty.filter (fun d => p d && s.l1Up d.core && s.homeUp part (32 * d.sector))

/-- A write-back of part of a unit reads the rest, which may not be correctable (R397, R412). -/
def homeBad (s : State) (d : Dirty) : Bool :=
  (d.mask != BitVec.allOnes 32 || unitSize (32 * d.sector) != 32) && (List.range 8).any (fun i => s.isBad (32 * d.sector + 4 * i))

/-- A write-back meets an error that cannot be corrected: at the home, or in the L1's own words (R397). -/
def backBad (s : State) (d : Dirty) : Bool := s.homeBad d || ! (s.badWords d).isEmpty

/-- Bytes of a partition have moved into HBM, a token for each of their sectors (R354). -/
def countMoved (s : State) (part : Nat) (sectors : List Nat) : State :=
  let n := (sectors.filter (fun x => inHbm (32 * x))).length
  s.setModule { s.module with moved := Sparse.set 0 s.module.moved part (Sparse.get 0 s.module.moved part + n) }

/-- Write back every dirty sector that `p` names, where its L1 can and its home has power, in ascending core order; errors that it
meets are counted (R399). -/
def flush (s : State) (part : Part) (p : Dirty → Bool) : State :=
  (s.sendable part p).foldl (fun s d =>
    let t := (s.badWords d).foldl (fun t w => t.noteError 3 (4 * w) part.id) ((s.writeBack d).countMoved part.id [d.sector])
    if s.homeBad d then t.noteError (placeOfAddr (32 * d.sector)) (32 * d.sector) part.id else t) s

/-- A flush that no instruction of the writing waves has asked for: one whose write-back meets an error owes its wave UNCORRECTABLE (R397;
log 60). -/
def recallDirty (s : State) (part : Part) (p : Dirty → Bool) : State :=
  let owed := ((s.sendable part p).filter s.backBad).map Dirty.wave
  let t := s.flush part p
  if owed.isEmpty then t else { t with waves := t.waves.map (fun w => if owed.contains w.uid then { w with backError := true } else w) }

/-- The flush would meet an error that cannot be corrected. -/
def flushBad (s : State) (part : Part) (p : Dirty → Bool) : Bool := (s.sendable part p).any s.backBad

/-- A reader that has had a sector recalled reads the merged data, not a copy from before (R124). -/
def dropStale (s t : State) (core sector : Nat) : State :=
  if s.elsewhere core sector then t.dropClean (fun k => k.core == core && k.sector == sector) else t

/-- The sector's homes recall it from every core but `core`, for `core` to read (R124). -/
def recallFrom (s : State) (part : Part) (core sector : Nat) : State :=
  s.dropStale (s.recallDirty part (fun d => d.sector == sector && d.core != core)) core sector

/-- The release marks that other cores left on a sector, with their cores (R142). -/
def marksOn (s : State) (core sector : Nat) : List (Nat × ReleaseMark) :=
  (s.dirty.filter (fun d => d.sector == sector && d.core != core)).flatMap (fun d => d.releases.map (fun m => (d.core, m)))
    ++ (s.homeMarks.filter (fun d => d.sector == sector && d.core != core)).flatMap (fun d => d.releases.map (fun m => (d.core, m)))

/-- A dirty sector that a promotion of mark `m` of core `core` writes back: older than the release, inside the mask of a masked
fence (R142) and, for a release of awaited operations, one of their sectors (R144). -/
def coveredBy (m : Nat × ReleaseMark) (d : Dirty) : Bool :=
  d.core == m.1 && d.first < m.2.seq && (match m.2.inside with | none => true | some rs => rs.any (fun r => r.overlaps (d.va) 32))
    && (match m.2.only with | none => true | some xs => xs.contains d.sector)

/-- What an acquire at `scope` by core `core` flushes for a sector: the sector itself, and at `.sd` or wider what the
promotions cover (R124, R142). -/
def acquireSet (s : State) (core sector : Nat) (scope : Scope) (d : Dirty) : Bool :=
  d.core != core && (d.sector == sector || scope.wideSd && (s.marksOn core sector).any (fun m => coveredBy m d))

def acquireFlush (s : State) (part : Part) (core sector : Nat) (scope : Scope) : State :=
  s.dropStale (s.recallDirty part (s.acquireSet core sector scope)) core sector

/-- Nothing is left that the acquire must see written back; until then it waits (R124, R142). -/
def acquired (s : State) (core sector : Nat) (scope : Scope) : Bool := ! s.dirty.any (s.acquireSet core sector scope)

end State

/-! ### The other spaces -/

/-- The bytes that an access of `n` bytes touches: consecutive, but in words 128 bytes apart in private memory (R120). -/
def accessAddrs (space : Space) (a n : Nat) : List Nat :=
  (List.range n).map (fun i => if space = .pv then a + i / 4 * 128 + i % 4 else a + i)

/-- A byte of the weight store of a die (R126). -/
def State.wsByte (s : State) (die a : Nat) : Byte := Sparse.get 0 s.ws (die * Config.wsDieSpan + a)

/-- Where a partition's share stands on every die (R126; log 41). -/
def shareBase (p : Part) : Nat := p.id * Config.wsBytesPerDie

/-- The bank of a weight-store address (R127). -/
def wsBank (a : Nat) : Nat := a / 2 ^ 25 % 8

/-- Bank `b` is in its vesper window at partition time `t` (R127). -/
def inWindow (t b : Nat) : Bool := 8000 * b ≤ t % 64000 && t % 64000 < 8000 * b + 2000

/-- A scratchpad word whose error cannot be corrected (R412). -/
def State.sramIsBad (s : State) (block : Nat) (csp : Bool) (a : Nat) : Bool :=
  s.sramBad.any (fun e => e.block == block && e.csp == csp && e.word == a / 4)

/-- Read a byte of a block's scratchpad. -/
def State.spByte (s : State) (csp : Bool) (block a : Nat) : Byte :=
  match s.block? block with
  | some b => Sparse.get 0 (if csp then b.csp else b.sp) a
  | none => 0

/-- Write a byte of a block's scratchpad. -/
def State.setSpByte (s : State) (csp : Bool) (block a : Nat) (v : Byte) : State :=
  s.onBlock block (fun b =>
    if csp then { b with csp := Sparse.set 0 b.csp a v }.wrote (4 * (a / 4096) + 1)
    else { b with sp := Sparse.set 0 b.sp a v }.wrote (4 * (a / 4096)))

/-- Write bytes into a scratchpad; a word that is covered whole is clean again (R412). -/
def State.writeSp (s : State) (csp : Bool) (block a : Nat) (bs : List Byte) : State :=
  let s := (bs.mapIdx (fun i b => (a + i, b))).foldl (fun s c => s.setSpByte csp block c.1 c.2) s
  { s with sramBad := s.sramBad.filter (fun e =>
      ! (e.block == block && e.csp == csp && a ≤ 4 * e.word && 4 * e.word + 4 ≤ a + bs.length)) }

end Sys2Proof.Machine
end

