-- ==== Sys2Proof/Machine/Residents.lean ====
section
/-! DEFINITION. The grant checker: vectors of 38 components, the safe-state test, grants, deferrals and returns (R54-R71). -/

namespace Sys2Proof.Machine

/-! ### Amounts and vectors -/

/-- Number of components of a grant vector (R55): 16 REG slices, then SPM, ACC, MXE and TAG of four cores each, CSP, and
the limits of REG, SPM, ACC, MXE and TAG. -/
def vecSize : Nat := 38

/-- An amount by its kind code (R54); REG is kept per wave. -/
def Amounts.of (a : Amounts) : Nat → Nat
  | 1 => a.spm
  | 2 => a.csp
  | 3 => a.acc
  | 4 => a.mxe
  | 5 => a.tag
  | _ => 0

/-- The amounts with one kind changed. -/
def Amounts.put (a : Amounts) (kind n : Nat) : Amounts :=
  match kind with
  | 1 => { a with spm := n }
  | 2 => { a with csp := n }
  | 3 => { a with acc := n }
  | 4 => { a with mxe := n }
  | 5 => { a with tag := n }
  | _ => a

/-- The limit of a kind; CSP has none beyond its place (R55). -/
def Limits.of (l : Limits) : Nat → Nat
  | 0 => l.reg
  | 1 => l.spm
  | 3 => l.acc
  | 4 => l.mxe
  | 5 => l.tag
  | _ => 32

def Limits.put (l : Limits) (kind n : Nat) : Limits :=
  match kind with
  | 0 => { l with reg := n }
  | 1 => { l with spm := n }
  | 3 => { l with acc := n }
  | 4 => { l with mxe := n }
  | 5 => { l with tag := n }
  | _ => l

/-- The place component of a kind (R55). -/
def placeIndex (kind core slice : Nat) : Nat :=
  match kind with
  | 0 => slice
  | 1 => 16 + core
  | 2 => 32
  | 3 => 20 + core
  | 4 => 24 + core
  | _ => 28 + core

/-- The limit component of a kind (R55). -/
def limitIndex (kind : Nat) : Nat :=
  match kind with
  | 0 => 33
  | 1 => 34
  | 3 => 35
  | 4 => 36
  | 5 => 37
  | _ => 32

/-- Physical capacity of the place components (R54); slice 0 hosts the service warp. -/
def placeCapacity (i : Nat) : Nat :=
  if i = 0 then 224 else if i < 16 then 256 else if i < 20 then 128 else if i < 24 then 64 else if i < 28 then 2
  else if i < 32 then 64 else 32

/-- What a cluster offers in every component. -/
def State.capacity (s : State) (cl : Nat) : List Nat :=
  let l := (s.cluster cl).gck.limit
  (List.range 33).map placeCapacity ++ [l.reg, l.spm, l.acc, l.mxe, l.tag]

/-- A block's amounts as a vector; `reg` gives a wave's share. -/
def blockVec (b : Block) (ws : List Wave) (a : Amounts) (reg : Wave → Nat) : List Nat :=
  let regs := (ws.map reg).sum
  (List.range vecSize).map (fun i =>
    if i < 16 then ((ws.filter (fun w => w.slice == i)).map reg).sum
    else if i < 32 then (if i % 4 = b.core then a.of (match i / 4 with | 4 => 1 | 5 => 3 | 6 => 4 | _ => 5) else 0)
    else if i = 32 then a.csp
    else match i with | 33 => regs | 34 => a.spm | 35 => a.acc | 36 => a.mxe | _ => a.tag)

def State.allocVec (s : State) (b : Block) : List Nat := blockVec b (s.wavesOf b.uid) b.alloc Wave.regAlloc

/-- Need is claim minus allocation (R58). -/
def State.needVec (s : State) (b : Block) : List Nat :=
  List.zipWith (· - ·) (blockVec b (s.wavesOf b.uid) b.claim Wave.regClaim) (s.allocVec b)

def vecAdd (a b : List Nat) : List Nat := List.zipWith (· + ·) a b
def vecSub (a b : List Nat) : List Nat := List.zipWith (· - ·) a b
def vecLe (a b : List Nat) : Bool := (List.zipWith (fun x y => decide (x ≤ y)) a b).all id
def vecSum (l : List (List Nat)) : List Nat := l.foldl vecAdd (List.replicate vecSize 0)

def State.allocated (s : State) (cl : Nat) : List Nat := vecSum ((s.residents cl).map s.allocVec)
def State.available (s : State) (cl : Nat) : List Nat := vecSub (s.capacity cl) (s.allocated cl)

/-! ### The tests -/

/-- One round after another of the full test: residents whose need fits complete together (R61). -/
def bankerRounds (fuel : Nat) (work : List Nat) (left : List (List Nat × List Nat)) : Bool :=
  match fuel with
  | 0 => left.isEmpty
  | f + 1 =>
    let now := left.filter (fun r => vecLe r.1 work)
    if now.isEmpty then left.isEmpty
    else bankerRounds f (vecAdd work (vecSum (now.map Prod.snd))) (left.filter (fun r => ! vecLe r.1 work))

/-- The state of a cluster's checker is safe (R58, R61). -/
def State.safe (s : State) (cl : Nat) : Bool :=
  let rs := (s.residents cl).map (fun b => (s.needVec b, s.allocVec b))
  bankerRounds rs.length (s.available cl) rs

/-- The fast path: every resident's need fits in what is available (R60). -/
def State.quick (s : State) (cl : Nat) : Bool := (s.residents cl).all (fun b => vecLe (s.needVec b) (s.available cl))

/-- No component is overdrawn (R59 step 3). -/
def State.fits (s : State) (cl : Nat) : Bool := vecLe (s.allocated cl) (s.capacity cl)

/-- Steps 3 to 5 of R59 for the state as it would stand after the grant. -/
def State.passes (s : State) (cl : Nat) : Bool := s.fits cl && (s.quick cl || s.safe cl)

/-! ### Claims and allocations -/

/-- The claim and the allocation that a request of a wave is held against: the wave's for REG (R57). -/
def claimOf (w : Wave) (b : Block) (kind : Nat) : Nat := if kind = 0 then w.regClaim else b.claim.of kind
def allocOf (w : Wave) (b : Block) (kind : Nat) : Nat := if kind = 0 then w.regAlloc else b.alloc.of kind

/-- The grant handle of R63. -/
def grantHandle (granted : Bool) (kind entry alloc : Nat) : Word :=
  BitVec.ofNat 32 (granted.toNat * 2 ^ 31 + kind * 2 ^ 28 + entry * 2 ^ 22 + alloc)

/-- Clear the units of a kind from rank `n` on, as the next grant of them does (R56). -/
def Block.clearFrom (b : Block) (kind n : Nat) : Block :=
  match kind with
  | 1 => { b with sp := Sparse.dropKeys (fun k => n * Config.spmBytes ≤ k) b.sp }
  | 2 => { b with csp := Sparse.dropKeys (fun k => n * Config.cspBytes ≤ k) b.csp }
  | 3 => { b with accs := Sparse.dropKeys (fun k => n ≤ k) b.accs }
  | 4 => { b with ctxs := Sparse.dropKeys (fun k => n ≤ k) b.ctxs }
  | 5 => { b with tags := Sparse.dropKeys (fun k => n ≤ k) b.tags }
  | _ => b

/-- The words of a scratchpad granule that is granted anew are clean whatever they held (R56, R412). -/
def State.freshSram (s : State) (b : Block) (kind : Nat) : State :=
  { s with sramBad := s.sramBad.filter (fun e => ! (e.block == b.uid
      && (kind == 1 && ! e.csp && decide (b.alloc.spm * Config.spmBytes ≤ 4 * e.word)
          || kind == 2 && e.csp && decide (b.alloc.csp * Config.cspBytes ≤ 4 * e.word)))) }

/-- Add `q` units to a wave's or its block's allocation; the new units start cleared (R56). -/
def State.grow (s : State) (w : Wave) (kind q : Nat) : State :=
  let s := match s.block? w.block with | some b => s.freshSram b kind | none => s
  if kind = 0 then
    s.onWave w.uid (fun w => { w with regAlloc := w.regAlloc + q
                                      v := Sparse.dropKeys (fun k => 8 * w.regAlloc ≤ k / 32) w.v })
  else s.onBlock w.block (fun b =>
    { b.clearFrom kind (b.alloc.of kind) with alloc := b.alloc.put kind (b.alloc.of kind + q) })

/-- After a return of `q` units of a kind: the limit falls towards its written value by the largest part that leaves every
resident's need (R55). -/
def State.settle (s : State) (cl kind q : Nat) : State :=
  let need := ((s.residents cl).map (fun b => (s.needVec b).getD (limitIndex kind) 0)).foldl max 0
  let c := s.cluster cl
  let room := (s.available cl).getD (limitIndex kind) 0 - need
  let fall := min (min q room) (c.gck.limit.of kind - c.gck.written.of kind)
  s.setCluster cl { c with gck := { c.gck with limit := c.gck.limit.put kind (c.gck.limit.of kind - fall) } }

/-- A return starts a scan of the deferred FIFO; during a scan it has one further scan follow (R65). -/
def Gck.startScan (g : Gck) : Gck := { g with scan := true, again := g.scan }

/-- A scan ends: the further one follows, if a return has called for it (R65). -/
def Gck.endScan (g : Gck) : Gck := { g with scan := g.again, again := false }

def State.onGck (s : State) (cl : Nat) (f : Gck → Gck) : State := s.onCluster cl (fun c => { c with gck := f c.gck })

/-- FREE's return (R68): the highest-ranked units go back, and a scan starts. -/
def State.shrink (s : State) (w : Wave) (b : Block) (kind q : Nat) : State :=
  let s := if kind = 0 then s.onWave w.uid (fun w => { w with regAlloc := w.regAlloc - q })
           else s.onBlock b.uid (fun b => { b with alloc := b.alloc.put kind (b.alloc.of kind - q) })
  (s.settle b.cluster kind q).onGck b.cluster Gck.startScan

/-! ### Requests -/

/-- The wave holds a deferred-FIFO entry (R64). -/
def State.deferredOf (s : State) (cl wave : Nat) : Option GrantRequest :=
  (s.cluster cl).gck.fifo.find? (fun r => r.wave == wave)

/-- The lowest FIFO entry number that is free. -/
def freeEntry (fifo : List GrantRequest) : Nat :=
  ((List.range 64).find? (fun n => fifo.all (fun r => r.entry != n))).getD 0x3F

/-- A grant to a newer request passes every waiting entry once more (R66). -/
def passOver (fifo : List GrantRequest) : List GrantRequest := fifo.map (fun r => { r with passed := r.passed + 1 })

/-- An entry of the cluster is senior (R66). -/
def State.hasSenior (s : State) (cl : Nat) : Bool := (s.cluster cl).gck.fifo.any (fun r => 16 ≤ r.passed)

/-- Write the S register that a grant handle goes to. -/
def Wave.writeHandle (w : Wave) (d : Operand) (h : Word) (full pz : Bool) : Wave :=
  match d with
  | .s n => w.writeS n { val := h, full := full, pz := pz }
  | _ => w

/-- Tell a wave that its request is granted: while it still stands at its ACQ the answer waits for it there, otherwise the
empty handle becomes full (R63). -/
def Wave.answerGrant (w : Wave) (d : Operand) (h : Word) (pz : Bool) : Wave :=
  match w.wait with
  | some .grant => { w with wait := some (.granted h) }
  | some (.deferred _) => { w with wait := some (.granted h) }
  | _ => w.writeHandle d h true pz

/-- Answer the oldest request in a cluster's input queue by R59 and R64, after a scan that is under way (R62, R65). -/
def State.testRequest (s : State) (cl : Nat) : State :=
  match (if (s.cluster cl).gck.scan then [] else (s.cluster cl).gck.queue) with
  | [] => s
  | r :: rest =>
    let s := s.onGck cl (fun g => { g with queue := rest })
    match s.wave? r.wave with
    | none => s
    | some w =>
      match s.block? w.block with
      | none => s
      | some b =>
        let have_ := allocOf w b r.kind
        let granted := fun (s : State) => (s.onGck cl (fun g => { g with fifo := passOver g.fifo })).onWave w.uid
          (fun w => { w with wait := some (.granted (grantHandle true r.kind 0x3F (have_ + r.q))) })
        if r.q = 0 then granted s
        else if claimOf w b r.kind < have_ + r.q then s.onWave w.uid (fun w => { w with wait := some .exceeded })
        else
          let s' := s.grow w r.kind r.q
          if s'.passes cl then granted s'
          else if 64 ≤ (s.cluster cl).gck.fifo.length then s.onWave w.uid (fun w => { w with wait := some .fifoFull })
          else
            let e := freeEntry (s.cluster cl).gck.fifo
            let s := s.onGck cl (fun g => { g with fifo := g.fifo ++ [{ r with entry := e, passed := 0 }] })
            if r.waits then s
            else s.onWave w.uid (fun w => { w with wait := some (.deferred (grantHandle false r.kind e have_)) })

/-- Test the entries of the deferred FIFO from oldest to newest; each grant updates the state before the next test (R65).
`older` are entries already passed over, oldest last. -/
def State.scanFifo (s : State) (cl : Nat) (older : List GrantRequest) : List GrantRequest → State
  | [] => s.onGck cl (fun g => { g with fifo := older.reverse })
  | r :: rest =>
    match s.wave? r.wave with
    | none => s.scanFifo cl older rest
    | some w =>
      let s' := s.grow w r.kind r.q
      if s'.passes cl then
        let a := match s'.wave? r.wave, s'.block? w.block with
          | some w, some b => allocOf w b r.kind
          | _, _ => 0
        (s'.onWave w.uid (fun w => w.answerGrant r.dst (grantHandle true r.kind r.entry a) r.pz)).scanFifo cl (passOver older) rest
      else s.scanFifo cl (r :: older) rest

/-- After a scan, the waves of the cluster that found the FIFO full try again (R64). -/
def State.retryFull (s : State) (cl : Nat) : State :=
  { s with waves := s.waves.map (fun w =>
      if w.wait = some .fifoFull && (s.block? w.block).any (fun b => b.cluster == cl) then { w with wait := none } else w) }

/-- Withdraw the requests of waves, never granted (R67). -/
def State.withdraw (s : State) (cl : Nat) (p : Nat → Bool) : State :=
  s.onGck cl (fun g => { g with queue := g.queue.filter (fun r => ! p r.wave), fifo := g.fifo.filter (fun r => ! p r.wave) })

/-- Take a block and its waves away and return all they hold (R49): every kind settles, deferred entries go, and a
scan starts (R65). -/
def State.dropBlock (s : State) (b : Block) : State :=
  let ws := s.wavesOf b.uid
  let regs := (ws.map Wave.regAlloc).sum
  let s := s.withdraw b.cluster (fun u => ws.any (fun w => w.uid == u))
  let s := { s with blocks := s.blocks.filter (fun x => x.uid != b.uid), waves := s.waves.filter (fun w => w.block != b.uid)
                    sramBad := s.sramBad.filter (fun e => e.block != b.uid) }
  ([1, 2, 3, 4, 5].foldl (fun s k => s.settle b.cluster k (b.alloc.of k)) (s.settle b.cluster 0 regs)).onGck b.cluster Gck.startScan

end Sys2Proof.Machine
end

