-- ==== Sys2Proof/Machine/Kill.lean ====
section
/-! DEFINITION. What the front end and the control core do in memory, the fault buffers, error counts, and the killing of a
grid (R374-R376, R380, R397, R399). -/

namespace Sys2Proof.Machine

namespace State

/-! ### Errors and fault buffers -/

/-- The party already has an open fault. -/
def parked (s : State) (p : Party) : Bool := s.faults.any (fun f => f.party == p)

/-- The lowest free entry of a die's fault buffer (R375). -/
def freeFault (s : State) (die : Nat) : Option Nat :=
  (List.range 512).find? (fun i => s.faults.all (fun f => ! (f.die == die && f.idx == some i)))

/-- A replayable fault parks its party: it takes an entry, or waits for one (R374, R375). -/
def openFault (s : State) (die part kind cluster core slot va : Nat) (party : Party) : State :=
  if s.parked party then s
  else
    let n := Sparse.get 0 s.module.faultSeq die
    let idx := if s.faults.any (fun f => f.die == die && f.idx.isNone) then none else s.freeFault die
    let s := s.setModule { s.module with faultSeq := Sparse.set 0 s.module.faultSeq die (n + 1) }
    let e : FaultEntry := { die := die, idx := idx, part := part, kind := kind, cluster := cluster, core := core, slot := slot,
                            va := va, seq := BitVec.ofNat 32 n, party := party }
    let s := { s with faults := s.faults ++ [e] }
    match idx with
    | some i => s.tell (.fault die i)
    | none => s

/-- Faults that wait without an entry take the entries that are free, in order of occurrence (R375). -/
def admitFaults (s : State) (die : Nat) : State :=
  (s.faults.filter (fun f => f.die == die && f.idx.isNone)).foldl (fun s f =>
    match s.freeFault die with
    | some i => { s with faults := s.faults.map (fun (x : FaultEntry) => if x.party = f.party then { x with idx := some i } else x) }.tell (.fault die i)
    | none => s) s

/-- Close the faults of the parties that `p` names. -/
def closeFaults (s : State) (p : Party → Bool) : State :=
  let s := { s with faults := s.faults.filter (fun f => ! p f.party) }
  (List.range Config.dies).foldl admitFaults s

end State

/-! ### Memory as the front end and the control core reach it -/

/-- The number under which an agent that is no core meets the homes. -/
def outsideCore : Nat := Config.clusters * Config.coresPerCluster

/-- Why an access of the front end or a copy engine does not happen, with the virtual address that it met; `uncorrectable` has the physical
address of the error too. `waiting` is for a home without power (R125) or a walker that has spent its budget (R358). -/
inductive Reach where
  | waiting
  | missing (va : Nat)
  | denied (va : Nat)
  | uncorrectable (at_ va : Nat)
  deriving DecidableEq, Repr

/-- The physical address of an access of the front end, or of a copy engine of die `die`; neither reaches the private window (R120, R134,
R323, R372 for NR pages). -/
def feAddr (s : State) (p : Part) (die va : Nat) (write : Bool) : Except Reach Nat :=
  if 2 ^ 58 ≤ va || inPrivate p va 1 then .error (.denied va)
  else match lookup s p die va with
  | .leaf l =>
    if ! (if write then l.w else l.r) then .error (.denied va)
    else if s.homeUp p (l.phys va) then .ok (l.phys va) else .error .waiting
  | .missing true => .error (.missing va)
  | .missing false => .error (.denied va)
  | .malformed _ => .error (.denied va)
  | .uncorrectable => .error (.uncorrectable (p.badEntry s va) va)
  | .held => .error .waiting

/-- The walk that an access has met its end at counts (R358, R371). -/
def State.touchReach (s : State) (p : Part) (die : Nat) (e : Reach) : State :=
  match e with
  | .waiting => s
  | .missing va | .denied va | .uncorrectable _ va => if 2 ^ 58 ≤ va || inPrivate p va 1 then s else s.touchPage p die va

/-- The pieces of `n` bytes from `va` that lie in one 4 KiB granule each, with their lengths: one page and one home (R122, R371). -/
def pieces (va n : Nat) : List (Nat × Nat) :=
  (List.range (if n = 0 then 0 else (va + n - 1) / 4096 - va / 4096 + 1)).map (fun i =>
    let a := max va ((va / 4096 + i) * 4096)
    (a, min (va + n) ((va / 4096 + i + 1) * 4096) - a))

/-- Physical addresses of `n` bytes from `va`, piece by piece. -/
def feAddrs (s : State) (p : Part) (va n : Nat) (write : Bool) : Except Reach (List Nat) :=
  if inPrivate p va n && n != 0 then .error (.denied va)
  else ((pieces va n).mapM (fun e => (feAddr s p p.feDie e.1 write).map (fun a => (List.range e.2).map (a + ·)))).map List.flatten

/-- The sectors of a list of physical addresses, each once. -/
def sectorsOf (as_ : List Nat) : List Nat := (as_.map (· / 32)).eraseDups

/-- Read bytes as an acquire at `.sy`: dirty sectors are recalled first, which may have to wait (R124, R125, R339, R409). -/
def State.feRead (s : State) (p : Part) (va n : Nat) : Except Reach (List Byte × State) := do
  let as_ ← feAddrs s p va n false
  let s := s.touchSpan p p.feDie va n
  let s' := (sectorsOf as_).foldl (fun s x => s.acquireFlush p outsideCore x .sy) s
  if (sectorsOf as_).any (fun x => ! s'.acquired outsideCore x .sy) then .error .waiting
  else match as_.find? s'.isBad with
    | some a => .error (.uncorrectable a va)
    | none => .ok (as_.map s'.byte, s')

/-- Write bytes at their homes at `.sy`. -/
def State.feWrite (s : State) (p : Part) (va : Nat) (bs : List Byte) : Except Reach State := do
  let as_ ← feAddrs s p va bs.length true
  let s' := (sectorsOf as_).foldl (fun s x => s.recallDirty p (fun d => d.sector == x)) (s.touchSpan p p.feDie va bs.length)
  .ok ((s'.writeCells (List.zip as_ bs)).dropClean (fun c => (sectorsOf as_).contains c.sector))

/-! ### Channels of a block that goes -/

/-- Channel slot fields (R89). -/
def slotValid (e : Word) : Bool := e.getLsbD 31
def slotPerm (e : Word) : Nat := e.toNat / 2 ^ 29 % 4
def slotClosed (e : Word) : Bool := e.getLsbD 28
def slotEndp (e : Word) : Nat := e.toNat / 2 ^ 16 % 2 ^ 12
def slotAllow (e : Word) : Nat := e.toNat % 2 ^ 16

/-- Set CLOSED in a slot. -/
def closeSlot (e : Word) : Word := e ||| BitVec.twoPow 32 28

/-- Change every block, one that stands in the image of a stopped cluster among them (R389, R394). -/
def Image.mapBlocks (f : Block → Block) (i : Image) : Image := if i.current then { i with blocks := i.blocks.map f } else i

def Cluster.mapImages (f : Image → Image) (c : Cluster) : Cluster := { c with imageA := c.imageA.map f, imageB := c.imageB.map f }

def State.mapBlocks (s : State) (f : Block → Block) : State :=
  { s with blocks := s.blocks.map f, clusters := s.clusters.map (fun (e : Nat × Cluster) => (e.1, e.2.mapImages (Image.mapBlocks f))) }

/-- Change every slot of the partition's blocks of equal linear index that is bound to the endpoint: both ends of a pipe (R298).
`f` also takes the entry as it was bound at the launch. -/
def State.mapEnds (s : State) (part lin endp : Nat) (f : Word → Word → Word) : State :=
  s.mapBlocks (fun b =>
    match s.grid? b.grid with
    | some g =>
      if b.lin = lin ∧ b.task = false ∧ g.part = part then
        let bound := fun (e : Word) => slotValid e && slotEndp e == endp
        if b.c.any bound then { b with c := b.c.mapIdx (fun n e => if bound e then f (g.slots.getD n 0) e else e) }.wrote 3 else b
      else b
    | none => b)

def Part.channel (p : Part) (lin endp : Nat) : Option Channel := p.channels.find? (fun c => c.lin == lin && c.endp == endp)

def Part.setChannel (p : Part) (c : Channel) : Part :=
  if p.channels.any (fun x => x.lin == c.lin && x.endp == c.endp) then
    { p with channels := p.channels.map (fun x => if x.lin = c.lin ∧ x.endp = c.endp then c else x) }
  else { p with channels := p.channels ++ [c] }

/-- A pending CHRECV of a pipe: its endpoint stands in its one access. -/
def Pend.receives (p : Pend) (endp : Nat) : Bool := p.kind == .receive && p.left.any (fun a => a.addr == endp)

/-- The pending CHRECVs of a block on a pipe: each has claimed one message, in order (R300). -/
def State.receivers (s : State) (b endp : Nat) : List Pend :=
  (s.wavesOf b).flatMap (fun w => w.pend.filter (fun p => p.receives endp))

/-- CHCLOSE by one end, that of block `b` (R302): both slots close; at the receive end unclaimed messages are discarded. -/
def State.closeChannel (s : State) (part : Nat) (b : Block) (e : Word) : State :=
  let endp := slotEndp e
  let claimed := (s.receivers b.uid endp).length
  let s := s.mapEnds part b.lin endp (fun _ e => closeSlot e)
  s.onPart part (fun p =>
    let c := (p.channel b.lin endp).getD { endp := endp, lin := b.lin, msgs := [], closed := false }
    p.setChannel (if slotPerm e = 2 then { c with closed := true, msgs := c.msgs.take claimed } else { c with closed := true }))

/-- A block that retires closes its bound slots (R302). -/
def State.closeSlots (s : State) (part : Nat) (b : Block) : State :=
  if b.task then s
  else b.c.foldl (fun s e => if slotValid e && ! slotClosed e then s.closeChannel part b e else s) s

/-! ### The kill -/

/-- The trap information of a kill record (R380). -/
structure KillCause where
  cause : Nat
  detail : Word
  toff : Nat
  lanes : BitVec 32
  addr : DWord
  word10 : Word
  deriving DecidableEq, Repr

/-- The partition-relative index of a cluster (R27). -/
def relCluster (p : Part) (cl : Nat) : Nat := cl - p.firstCluster

/-- The sixteen words of the kill record (R380). -/
def killRecord (s : State) (p : Part) (g : Grid) (lin cluster waveId : Nat) (k : KillCause) : List Word :=
  let t := s.timeOf p
  [BitVec.ofNat 32 k.cause, k.detail, BitVec.ofNat 32 k.toff, k.lanes] ++ wordsOf 2 k.addr.toNat ++ wordsOf 2 g.krec
    ++ [BitVec.ofNat 32 lin, BitVec.ofNat 32 (relCluster p cluster * 256 + waveId), k.word10] ++ wordsOf 2 t
    ++ [g.index, BitVec.ofNat 32 g.queue, 0]

/-- Address of a packet of a queue (R323). -/
def packetAddr (q : Queue) (i : Word) : Nat := q.saved.rbase.toNat + 64 * (i.toNat % 2 ^ q.saved.log2n)

/-- A queue's fault: STATE 3, REASON and FADDR, and the trap by which the control core tells its owner, over the vector of its events to
the host (R349, R409). -/
def State.faultQueue (s : State) (part slot reason : Nat) (faddr : Nat) : State :=
  ((s.onPart part (fun p => p.setQueue slot { p.queue slot with flag := .faulted, reason := reason,
                                                                faddr := BitVec.ofNat 64 faddr })).tell
    (.packet part slot reason (BitVec.ofNat 64 faddr))).tell (.msix 16)

/-- Write a kill record into its ring entry and tell the control core, with whether the write failed (R380). A record for a home
without power waits for it (R125). -/
def State.sendKill (s : State) (p : Part) (va : Nat) (record : List Word) : State :=
  match s.feWrite p va (record.flatMap (fun w => natToBytes 4 w.toNat)) with
  | .ok s' => s'.tell (.kill record false)
  | .error .waiting => s.onPart p.id (fun p => { p with kills := p.kills ++ [(va, record)] })
  | .error _ => s.tell (.kill record true)

/-- Records that wait are written, where they can be. -/
def State.sendKills (s : State) : State :=
  s.parts.foldl (fun s p => p.kills.foldl (fun s k => s.sendKill p k.1 k.2) (s.onPart p.id (fun p => { p with kills := [] }))) s

/-- The record of a kill takes the next entry of the ring (R380). -/
def State.writeKillRecord (s : State) (p : Part) (record : List Word) : State :=
  (s.onPart p.id (fun p => { p with xlate := { p.xlate with fridx := p.xlate.fridx + 1 } })).sendKill p
    (p.xlate.frbase.toNat + 64 * (p.xlate.fridx.toNat % 16)) record

/-- Free the gang's endpoint indices once its last member is gone (R335). -/
def State.freeEndpoints (s : State) (part : Nat) (gang : Option Nat) : State :=
  match gang with
  | none => s
  | some k => if s.grids.any (fun g => g.part == part && g.gang == some k) then s
              else s.onPart part (fun p =>
                { p with endpoints := p.endpoints.filter (fun e => e.2 != k)
                         channels := p.channels.filter (fun c => ! p.endpoints.any (fun e => e.2 == k && e.1 == c.endp)) })

/-- Take a grid out of the partition: its dispensers, tasks and gate generation (R45, R334, R380). -/
def State.forgetGrid (s : State) (g : Grid) : State :=
  let s := { s with grids := s.grids.filter (fun x => x.id != g.id) }
  let s := s.onPart g.part (fun p =>
    { p with gates := p.gates.map (fun x => if x.opener = g.id then { x with isOpen := true } else x)
             dispensers := p.dispensers.map (fun e => if e.2.grid = some g.id then (e.1, { e.2 with grid := none }) else e)
             tasks := p.tasks.filter (fun t => t.grid != g.id)
             taskWaves := p.taskWaves.filter (fun t => t.grid != g.id) })
  s.freeEndpoints g.part g.gang

/-- Drop the work that a grid's waves and blocks have in flight (R380: performed or abandoned, each whole). -/
def State.abandon (s : State) (blocks : List Nat) : State :=
  let waves := (s.waves.filter (fun w => blocks.contains w.block)).map Wave.uid
  let copies := (s.copies.filter (fun c => c.kind != .packet && c.kind != .wsload && blocks.contains c.block)).map Copy.id
  let s := { s with requests := s.requests.filter (fun r => ! waves.contains r.wave)
                    copies := s.copies.filter (fun c => ! copies.contains c.id) }
  s.closeFaults (fun p => match p with | .wave u => waves.contains u | .copy c => copies.contains c | .queue .. => false)

/-- A graph run that has met a fault ends when the last grid it launched has: its packet never completes (R344). -/
def Part.endFaulted (p : Part) : Part :=
  let past := (p.graphs.filter (fun r => r.fault && r.running.isEmpty && ! r.marking)).map GraphRun.table
  { p with
    graphs := p.graphs.filter (fun r => ! past.contains r.table)
    queues := p.queues.map (fun (e : Nat × Queue) => (e.1, { e.2 with flights := e.2.flights.filter (fun f =>
      match f.work with | .graph t => ! past.contains t | _ => true) })) }

/-- Change the run of a table. -/
def State.onRun (s : State) (p table : Nat) (f : GraphRun → GraphRun) : State :=
  s.onPart p (fun q => { q with graphs := q.graphs.map (fun (r : GraphRun) => if r.table = table then f r else r) })

/-- Set bits in the STATUS word of a table (R343). -/
def State.orStatus (s : State) (p : Part) (table bits : Nat) : Except Reach State := do
  let (bs, s) ← s.feRead p (table + 8) 4
  s.feWrite p (table + 8) (natToBytes 4 (bytesToNat bs ||| bits))

/-- Write FAULT into the table of a run, as far as the table can be reached now; a home or a page that is missing is waited for (R125,
R344, R374). -/
def State.markGraph (s : State) (p table : Nat) : State :=
  match s.part? p with
  | none => s
  | some q =>
    let told := fun (s : State) => s.onRun p table (fun r => { r with marking := false })
    match s.orStatus q table 8 with
    | .ok s' => told s'
    | .error .waiting => s
    | .error (.missing _) => s
    | .error e => told (s.touchReach q q.feDie e)

/-- Kill a grid (R380). -/
def State.killGrid (s : State) (gid lin cluster waveId : Nat) (k : KillCause) : State :=
  match s.grid? gid with
  | none => s
  | some g =>
    match s.part? g.part with
    | none => s
    | some p =>
      let s := s.writeKillRecord p (killRecord s p g lin cluster waveId k)
      let bs := s.blocks.filter (fun b => b.grid == gid)
      let s := s.abandon (bs.map Block.uid)
      let s := s.recallDirty p (fun d => bs.any (fun b => b.coreIndex == d.core))
      let s := bs.foldl (fun s b => (s.closeSlots p.id b).dropBlock b) s
      let s := s.forgetGrid g
      let q := p.queue g.queue
      let s := s.onPart p.id (fun p => p.setQueue g.queue
        { p.queue g.queue with flights := (p.queue g.queue).flights.filter (fun f => f.work != .grid gid) })
      let s := match g.node, (s.part? p.id).bind (fun p => p.graphs.find? (fun r => r.slot == g.queue && r.index == g.index)) with
        | some n, some r =>
          (s.onPart p.id (fun p => { p with graphs := p.graphs.map (fun (x : GraphRun) =>
            if x.table = r.table then { x with fault := true, marking := true, ready := [], running := x.running.filter (fun m => m != n) }
            else x) })).markGraph p.id r.table
        | _, _ => s
      let s := s.onPart p.id Part.endFaulted
      s.faultQueue p.id g.queue 0x80 (packetAddr q g.index)

end Sys2Proof.Machine
end

