-- ==== Sys2Proof/Machine/Ops.lean ====
section
/-! DEFINITION. Issue: the head group and its guard, the one operation that takes a precise fault, the return from it, and the
step past an instruction (R28-R31, R170, R177, R377-R383). -/

namespace Sys2Proof.Machine

/-- What an instruction issues with: its wave, the block, grid and partition around it, the issuing group, the lanes of
`active` and the group's counter (R22, R28). -/
structure Issue where
  wave : Wave
  block : Block
  grid : Grid
  part : Part
  group : List Nat
  active : List Nat
  pc : Nat
  deriving DecidableEq, Repr

/-- A precise fault with its detail and address (R377). -/
structure Trap where
  code : Nat
  detail : Word
  addr : DWord
  deriving DecidableEq, Repr

/-- Why an instruction does not pass: it waits at issue (R30), it leaves a state but stays where it is (lanes held, a party
parked, a request submitted), or it faults. -/
inductive Stop where
  | wait
  | stay (s : State)
  | trap (t : Trap)
  deriving DecidableEq, Repr

/-- What one instruction does to the state around it. -/
abbrev Effect := Except Stop State

/-- A precise fault without address. -/
def fault (code : Nat) (detail : Nat) : Stop := .trap { code := code, detail := BitVec.ofNat 32 detail, addr := 0 }

/-- A precise fault with TADDR. -/
def faultAt (code detail addr : Nat) : Stop :=
  .trap { code := code, detail := BitVec.ofNat 32 detail, addr := BitVec.ofNat 64 addr }

/-- Raise a stop when a condition holds. -/
def stopIf (b : Bool) (e : Stop) : Except Stop Unit := if b then .error e else .ok ()

/-! ### The codes of R377 -/

namespace Cause
def illegal : Nat := 0x01
def priv : Nat := 0x02
def emptyRead : Nat := 0x03
def poisonUse : Nat := 0x04
def grantRange : Nat := 0x05
def misaligned : Nat := 0x06
def addrRange : Nat := 0x07
def pvReserved : Nat := 0x08
def constRange : Nat := 0x09
def wsRange : Nat := 0x0A
def badTarget : Nat := 0x0B
def rstackOverflow : Nat := 0x0C
def rstackEmpty : Nat := 0x0D
def collectiveSplit : Nat := 0x0E
def barrierMember : Nat := 0x0F
def claimExceeded : Nat := 0x10
def freeUnderflow : Nat := 0x11
def format : Nat := 0x12
def mxParam : Nat := 0x13
def copyParam : Nat := 0x14
def cpmTarget : Nat := 0x15
def channel : Nat := 0x16
def wdqBind : Nat := 0x17
def uncorrectable : Nat := 0x18
def userTrap : Nat := 0x19
def permission : Nat := 0x1A
def xlate : Nat := 0x1B
def ptFormat : Nat := 0x1C
def fallback : Nat := 0x1D
def nested : Nat := 0x1E
def halted : Nat := 0x1F
end Cause

/-! ### Issue -/

/-- The guard passes lane `l` (R15). -/
def guardPasses (w : Wave) (x : Fields) (l : Nat) : Bool := (w.readP x.gp l).val != x.gn

/-- The guard predicate of lane `l` is poisoned; P7 never is (R72). -/
def guardPoisoned (w : Wave) (x : Fields) (l : Nat) : Bool := (w.readP x.gp l).pz

/-- The issue of an instruction by the issuing wave's head group. -/
def State.issue? (s : State) (x : Fields) : Option Issue :=
  match s.wave? s.issuing with
  | none => none
  | some w =>
    match w.headPc, s.block? w.block with
    | some pc, some b =>
      match s.grid? b.grid with
      | none => none
      | some g =>
        match s.part? g.part with
        | none => none
        | some p => some { wave := w, block := b, grid := g, part := p, group := w.headLanes,
                           active := w.headLanes.filter (guardPasses w x), pc := pc }
    | _, _ => none

namespace Issue
/-- The core that issues, by its module-wide number. -/
def core (c : Issue) : Nat := c.block.coreIndex
/-- Bytes of the code that the group runs: the kernel's, or the handler's (R170, R378). -/
def codeSize (c : Issue) : Nat := if c.wave.handler then c.part.xlate.hsize.toNat else c.grid.codesz
/-- Some lane of `active` has a poisoned guard (R184). -/
def guardPz (c : Issue) (x : Fields) : Bool := c.active.any (guardPoisoned c.wave x)
/-- A poisoned guard in any lane of the issuing group (R84). -/
def guardUse (c : Issue) (x : Fields) : Except Stop Unit :=
  stopIf (c.group.any (guardPoisoned c.wave x)) (fault Cause.poisonUse 0)
end Issue

/-- Change the issuing wave. -/
def State.own (s : State) (c : Issue) (f : Wave → Wave) : State := s.onWave c.wave.uid f

/-- Change the issuing wave's block. -/
def State.ownBlock (s : State) (c : Issue) (f : Block → Block) : State := s.onBlock c.block.uid f

/-! ### Taking a precise fault -/

/-- The kill cause of a trap of an issuing group. -/
def killCause (c : Issue) (t : Trap) (cause : Nat) (word10 : Word) : KillCause :=
  { cause := cause, detail := t.detail, toff := c.pc, lanes := maskOf c.active, addr := t.addr, word10 := word10 }

/-- Kill the issuing grid (R380). -/
def State.killOwn (s : State) (c : Issue) (k : KillCause) : State :=
  s.killGrid c.grid.id c.block.lin c.block.cluster c.wave.waveId k

/-- The trap record registers of a delivered fault (R378, R379). -/
def trapRegs (old : TrapRegs) (c : Issue) (t : Trap) (rpc : Nat) : TrapRegs :=
  { old with tcause := BitVec.ofNat 32 t.code, tdetail := t.detail, toff := BitVec.ofNat 32 c.pc, tlanes := maskOf c.active,
             taddr := t.addr, rpc := BitVec.ofNat 32 rpc }

/-- The wave as the handler finds it (R378): record written, other groups frozen, the trapping group at counter 0. -/
def Wave.enterHandler (w : Wave) (c : Issue) (t : Trap) (rpc : Nat) : Wave :=
  { w with
    trap := trapRegs w.trap c t rpc
    handler := true
    wait := none
    lanes := w.lanes.mapIdx (fun l x =>
      if c.group.contains l then { x with pc := 0, held := false }
      else if x.state = .live then { x with frozen := true } else x) }

/-- Deliver a precise fault (R378): a fault at handler level kills with NESTED; without a handler, and for COLLECTIVE_SPLIT,
the grid is killed; else the trap handler takes it. -/
def State.raise (s : State) (c : Issue) (t : Trap) (rpc : Nat) : State :=
  if c.wave.handler then
    s.killOwn c (killCause c { t with detail := BitVec.ofNat 32 t.code } Cause.nested (BitVec.ofNat 32 t.code))
  else if c.part.xlate.hsize = 0 ∨ t.code = Cause.collectiveSplit then s.killOwn c (killCause c t t.code 0)
  else s.own c (fun w => w.enterHandler c t rpc)

/-- The guard of a word, whatever the rest of it holds (R15, R169). -/
def guardOf (gn : Bool) (gp : Fin 8) : Fields :=
  { gn := gn, gp := gp, d := .zero, a := .zero, b := .zero, c := .zero, ty := .dflt, space := .g, order := .rlx, scope := .bk, opt := 0,
    ea := false, eb := false, ec := false, stall := 0, yld := false, reuse := 0 }

/-- The issue of the head group before its word is known: every lane of the group. -/
def State.headIssue? (s : State) : Option Issue := s.issue? (guardOf false 7)

/-- UNCORRECTABLE, without detail or address (R377). -/
def uncorrectableTrap : Trap := { code := Cause.uncorrectable, detail := 0, addr := 0 }

/-- An error that cannot be corrected meets the group's instruction: it is counted, and the instruction faults (R397, R399). -/
def uncorrectableAt (s : State) (c : Issue) (place at_ : Nat) : Stop :=
  .stay ((s.noteError place at_ c.part.id).raise c uncorrectableTrap c.pc)

/-- The wave stands at an ACQ whose request the checker holds (R62, R64). -/
def Wave.asks (w : Wave) : Bool :=
  match w.wait with
  | some .grant | some (.deferred _) => true
  | _ => false

/-- A wave takes UNCORRECTABLE at the instruction that it stands at, for a write-back of its own that met an error; the request of an ACQ
that it waits at is withdrawn, and no other: an entry of an ACQ that it has stepped past stays (R67, R397; log 60). -/
def State.raiseAtHead (s : State) (u : Nat) : State :=
  let s := (s.closeFaults (· == .wave u))
  match ({ s with issuing := u }).headIssue? with
  | some c =>
    let s := if c.wave.asks then s.withdraw c.block.cluster (· == u) else s
    s.raise c uncorrectableTrap c.pc
  | none => s

/-- The offset that RPC receives for a fault of the instruction itself (R378). -/
def resumeOffset (c : Issue) (t : Trap) : Nat := if t.code = Cause.userTrap then c.pc + 12 else c.pc

/-- ERET's transfer (R383): back to user level, every lane of the group at RPC, the other groups unfrozen. -/
def Wave.leaveHandler (w : Wave) (group : List Nat) : Wave :=
  { w with
    handler := false
    lanes := w.lanes.mapIdx (fun l x =>
      if group.contains l then { x with pc := w.trap.rpc.toNat, held := false, frozen := false } else { x with frozen := false }) }

/-! ### Stepping past an instruction -/

/-- The next counter of a lane: its target where it takes a transfer, else the instruction's address + 12 (R29). -/
def nextPc (c : Issue) (jumps : List (Nat × Nat)) (l : Nat) : Nat :=
  match jumps.find? (fun j => j.1 == l) with
  | some j => j.2
  | none => c.pc + 12

/-- The issuing wave past its instruction: counters moved, held marks cleared, the STALL gap begun (R29, R31, R177). -/
def Wave.pass (w : Wave) (c : Issue) (x : Fields) (jumps : List (Nat × Nat)) : Wave :=
  { w with
    lanes := w.lanes.mapIdx (fun l y => if c.group.contains l then { y with pc := nextPc c jumps l, held := false } else y)
    stall := x.stall.toNat
    wait := none }

/-- Lanes of the group that step past the last instruction (R170). -/
def fallen (s : State) (c : Issue) (jumps : List (Nat × Nat)) : List Nat :=
  if c.pc + 12 < c.codeSize then []
  else match s.wave? c.wave.uid with
    | none => []
    | some w => c.group.filter (fun l => w.isLive l && ! jumps.any (fun j => j.1 == l))

/-- Another wave of the slice has issued: waves that yielded to it wait for it no longer (R212). -/
def Wave.seeIssue (issuer : Nat) (w : Wave) : Wave :=
  match w.yielded with
  | none => w
  | some y => let us := y.mates.filter (· != issuer)
              { w with yielded := if us.isEmpty then none else some { y with mates := us } }

/-- Step past the instruction; a group that leaves the code takes BAD_TARGET after the effect (R170). -/
def State.finish (s : State) (c : Issue) (x : Fields) (jumps : List (Nat × Nat)) : State :=
  let s := s.own c (fun w => w.pass c x jumps)
  let s := { s with waves := s.waves.map (fun w => if w.uid = c.wave.uid then w else Wave.seeIssue c.wave.uid w) }
  let out := fallen s c jumps
  if out.isEmpty then s
  else s.raise { c with group := out, active := c.active.filter out.contains }
    { code := Cause.badTarget, detail := BitVec.ofNat 32 (c.pc + 12), addr := 0 } (c.pc + 12)

/-- Issue an instruction: `k` gives its effect and the lanes' targets, and `post` acts once the group has stepped past it. -/
def issueFull (s : State) (x : Fields) (k : Issue → Except Stop (State × List (Nat × Nat))) (post : Issue → State → State) :
    Host.Outcome State Fault Refusal :=
  match s.issue? x with
  | none => .fault .noIssuer
  | some c =>
    match k c with
    | .ok (s', jumps) => .next (post c (s'.finish c x jumps))
    | .error .wait => .next s
    | .error (.stay s') => .next s'
    | .error (.trap t) => .next (s.raise c t (resumeOffset c t))

/-- Issue an instruction whose lanes may transfer. -/
def issueJump (s : State) (x : Fields) (k : Issue → Except Stop (State × List (Nat × Nat))) : Host.Outcome State Fault Refusal :=
  issueFull s x k (fun _ s => s)

/-- Issue an instruction that transfers no lane. -/
def issue (s : State) (x : Fields) (k : Issue → Effect) : Host.Outcome State Fault Refusal :=
  issueJump s x (fun c => (k c).map (fun s' => (s', [])))

/-! ### Collectives -/

/-- The issuing group holds its lanes at the collective's address (R31). -/
def State.hold (s : State) (c : Issue) : State :=
  s.own c (fun w => w.mapLanes c.group.contains (fun _ x => { x with held := true }))

/-- A wave-collective (R31): lanes are held until every present lane of the wave is there; at more than one address the wave
faults; `k` is what the whole wave then does. -/
def collective (s : State) (c : Issue) (k : Effect) : Effect :=
  let here := c.wave.presentLanes.filter (fun l => (c.wave.lane l).pc == c.pc)
  if c.group.length < c.wave.presentLanes.length then .error (.stay (s.hold c))
  else if here.length < c.wave.presentLanes.length then .error (fault Cause.collectiveSplit c.pc)
  else k

end Sys2Proof.Machine
end

