-- ==== Sys2Proof/Machine/Operands.lean ====
section
/-! DEFINITION. Every operand form: what an operand delivers in a lane, the special registers, the checks at issue (grant
range, empty policy, locked destination, poison), and the writing of results (R56, R74-R84, R171, R184-R186). -/

namespace Sys2Proof.Machine

/-! ### Special registers -/

/-- A coordinate of a block (R24, R27); all ones in a task wave. -/
def blockCoord (b : Block) (g : Grid) (axis : Nat) : Nat :=
  if b.task then 0xFFFFFFFF
  else match axis with
    | 0 => b.lin % g.dimX
    | 1 => b.lin / g.dimX % g.dimY
    | _ => b.lin / (g.dimX * g.dimY)

/-- The ready bits of the block's tags (R93). -/
def tagMap (b : Block) : Nat :=
  ((List.range 64).map (fun n => if n < b.alloc.tag && (b.tag n).map == BitVec.allOnes 64 then 2 ^ n else 0)).sum

/-- VESPER at partition time `t` (R78, R127). -/
def vesperWord (t : Nat) : Nat :=
  let u := t % 64000
  let inwin := u % 8000 < 2000
  (8000 - u % 8000) * 2 ^ 8 + (if inwin then 8 else 0) + (if inwin then u / 8000 else (u / 8000 + 1) % 8)

/-- CLAIMS (R79). -/
def claimsWord (s : State) (w : Wave) (b : Block) : Nat :=
  (if (s.deferredOf b.cluster w.uid).isSome then 2 ^ 16 else 0)
    + ((List.range 6).map (fun k => (if 0 < allocOf w b k then 2 ^ (8 + k) else 0)
        + (if allocOf w b k < claimOf w b k then 2 ^ k else 0))).sum

/-- The value of a special register in a lane (R27, R75-R79); an upper half is its own sample. -/
def sregValue (s : State) (c : Issue) (r : SReg) (l : Nat) : Nat :=
  let clock := (s.cluster c.block.cluster).clock.toNat
  match r with
  | .laneid => l
  | .waveid => c.wave.waveId
  | .blockidX => blockCoord c.block c.grid 0
  | .blockidY => blockCoord c.block c.grid 1
  | .blockidZ => blockCoord c.block c.grid 2
  | .clusterid => relCluster c.part c.block.cluster
  | .sdid => relCluster c.part c.block.cluster / Config.clustersPerDomain
  | .griddimX => c.grid.dimX
  | .griddimY => c.grid.dimY
  | .griddimZ => c.grid.dimZ
  | .taskid => (c.wave.lane l).task.toNat
  | .lanemask => (maskOf c.group).toNat
  | .time => s.timeOf c.part
  | .timeHi => s.timeOf c.part / 2 ^ 32
  | .clock => clock
  | .clockHi => clock / 2 ^ 32
  | .tagmap => tagMap c.block
  | .tagmapHi => tagMap c.block / 2 ^ 32
  | .resume => c.block.resume.toNat
  | .vesper => vesperWord (s.timeOf c.part)
  | .claims => claimsWord s c.wave c.block

/-! ### Reading an operand -/

/-- What an operand delivers: its bits, whether every element is full, whether any is poisoned (R74). -/
structure Read where
  val : Nat
  full : Bool
  pz : Bool
  deriving DecidableEq, Repr

/-- A value that is always full and unpoisoned. -/
def Read.clean (v : Nat) : Read := { val := v, full := true, pz := false }

/-- The members of a register group together (R74). -/
def Read.ofElems (es : List Elem) : Read :=
  { val := natOfWords (es.map Elem.val), full := es.all Elem.full, pz := es.any Elem.pz }

/-- Registers `n` and up of a lane's V file, or of the wave's S file. -/
def Wave.vElems (w : Wave) (n regs l : Nat) : List Elem := (List.range regs).map (fun i => w.readV (n + i) l)
def Wave.sElems (w : Wave) (n regs : Nat) : List Elem := (List.range regs).map (fun i => w.readS (n + i))

/-- Read an operand of `regs` 32-bit registers in lane `l` (R171, R172, R186); an 8-bit immediate is sign-extended to 128 bits too, in the
datum of an ST.a128 (log 75). -/
def readOp (s : State) (c : Issue) (o : Operand) (regs l : Nat) : Read :=
  match o with
  | .v n => .ofElems (c.wave.vElems n regs l)
  | .s n => .ofElems (c.wave.sElems n regs)
  | .sp r => .clean (sregValue s c r l % 2 ^ (32 * regs))
  | .imm b => .clean (b.signExtend (32 * regs)).toNat
  | .imm32 w => .clean (w.signExtend (32 * regs)).toNat
  | .p n => let e := c.wave.readP n l; { val := e.val.toNat, full := true, pz := e.pz }
  | .f n => .clean (c.grid.formats.getD n 0).toNat
  | .c n => .clean (c.block.c.getD n 0).toNat
  | .zero => .clean 0
  | .g _ | .t _ | .bar _ _ => .clean 0

/-! ### Checks at issue -/

/-- A source operand: how many registers wide, its policy bit, and its place in EMPTY_READ's detail (1 A, 2 B, 3 C; 0 for a
source held in D, which blocks). -/
structure Src where
  op : Operand
  regs : Nat
  trap : Bool
  place : Nat
  deriving DecidableEq, Repr

def srcA (x : Fields) (regs : Nat) : Src := { op := x.a, regs := regs, trap := x.ea, place := 1 }
def srcB (x : Fields) (regs : Nat) : Src := { op := x.b, regs := regs, trap := x.eb, place := 2 }
def srcC (x : Fields) (regs : Nat) : Src := { op := x.c, regs := regs, trap := x.ec, place := 3 }
def srcD (x : Fields) (regs : Nat) : Src := { op := x.d, regs := regs, trap := false, place := 0 }

/-- A V register group that reaches beyond the wave's allocation (R56). -/
def beyondGrant (w : Wave) (o : Operand) (regs : Nat) : Bool :=
  match o with
  | .v n => decide (Config.regsPerGranule * w.regAlloc < n + regs)
  | _ => false

/-- The first empty source decides: it blocks or traps by its policy bit (R16, R80); that the first of A, B, C, D decides where several are
empty under different bits is the model's choice (log 19). -/
def checkEmpty (s : State) (c : Issue) : List Src → Except Stop Unit
  | [] => .ok ()
  | r :: t =>
    if c.active.all (fun l => (readOp s c r.op r.regs l).full) then checkEmpty s c t
    else if r.trap then .error (fault Cause.emptyRead r.place) else .error .wait

/-- A register locked by a matrix operation (R81). -/
def Wave.isLocked (w : Wave) (r : Nat) : Bool := w.locks.any (fun k => k.base ≤ r && r < k.base + k.count)

/-- A destination that is empty in some lane of `active`, or locked, makes the instruction wait (R81). -/
def destBusy (c : Issue) (o : Operand) (regs : Nat) : Bool :=
  match o with
  | .v n => (List.range regs).any (fun i => c.wave.isLocked (n + i) || c.active.any (fun l => ! (c.wave.readV (n + i) l).full))
  | .s n => (List.range regs).any (fun i => ! (c.wave.readS (n + i)).full)
  | _ => false

/-- The checks that every instruction with an `active` lane passes: grant range, empty sources, a free destination, in this order (R56, R80,
R81; log 19). -/
def checkOperands (s : State) (c : Issue) (srcs : List Src) (d : Operand) (dregs : Nat) : Except Stop Unit := do
  if c.active.isEmpty then .ok ()
  else
    stopIf (beyondGrant c.wave d dregs || srcs.any (fun r => beyondGrant c.wave r.op r.regs)) (fault Cause.grantRange 0)
    checkEmpty s c srcs
    stopIf (destBusy c d dregs) .wait

/-- A source that is poisoned in some lane of `active`. -/
def anyPoisoned (s : State) (c : Issue) (r : Src) : Bool := c.active.any (fun l => (readOp s c r.op r.regs l).pz)

/-- Using a poisoned value faults (R84). -/
def checkPoison (s : State) (c : Issue) (srcs : List Src) : Except Stop Unit :=
  stopIf (srcs.any (anyPoisoned s c)) (fault Cause.poisonUse 0)

/-! ### Writing a result -/

/-- A result: its bits and its poison. -/
structure Result where
  val : Nat
  pz : Bool
  deriving DecidableEq, Repr

/-- Write `regs` registers from `n` on in lane `l`. -/
def Wave.putV (w : Wave) (n regs l : Nat) (r : Result) : Wave :=
  (List.range regs).foldl (fun w i => w.writeV (n + i) l { val := BitVec.ofNat 32 (r.val >>> (32 * i)), full := true, pz := r.pz }) w

def Wave.putS (w : Wave) (n regs : Nat) (r : Result) : Wave :=
  (List.range regs).foldl (fun w i => w.writeS (n + i) { val := BitVec.ofNat 32 (r.val >>> (32 * i)), full := true, pz := r.pz }) w

/-- Write a result to D in every lane of `active`, or once (R184): an S register is poisoned when any lane would poison it. -/
def Wave.putResult (w : Wave) (d : Operand) (regs : Nat) (active : List Nat) (r : Nat → Result) : Wave :=
  match d with
  | .v n => active.foldl (fun w l => w.putV n regs l (r l)) w
  | .p n => active.foldl (fun w l => w.writeP n l { val := decide ((r l).val ≠ 0), pz := (r l).pz }) w
  | .s n =>
    match active with
    | [] => w
    | l :: _ => w.putS n regs { val := (r l).val, pz := active.any (fun l => (r l).pz) }
  | _ => w

/-- Mark D empty (R74, R80). -/
def Wave.markEmpty (w : Wave) (d : Operand) (regs : Nat) (active : List Nat) : Wave :=
  match d with
  | .v n => active.foldl (fun w l => (List.range regs).foldl (fun w i =>
      w.writeV (n + i) l { w.readV (n + i) l with full := false }) w) w
  | .s n => if active.isEmpty then w
            else (List.range regs).foldl (fun w i => w.writeS (n + i) { w.readS (n + i) with full := false }) w
  | _ => w

/-! ### Lane-by-lane computation -/

/-- How many registers D, A, B and C take, 0 for a field that is not a source; `old` when D is a source too. -/
structure Shape where
  d : Nat
  a : Nat
  b : Nat
  c : Nat
  old : Bool
  deriving DecidableEq, Repr

/-- The values a lane computes from. -/
structure Args where
  a : Nat
  b : Nat
  c : Nat
  old : Nat
  deriving DecidableEq, Repr

/-- The sources of a shape, in the order A, B, C, then the old D. -/
def Shape.srcs (h : Shape) (x : Fields) : List Src :=
  (if h.a = 0 then [] else [srcA x h.a]) ++ (if h.b = 0 then [] else [srcB x h.b]) ++ (if h.c = 0 then [] else [srcC x h.c])
    ++ (if h.old then [srcD x h.d] else [])

/-- A lane's argument values. -/
def laneArgs (s : State) (c : Issue) (x : Fields) (h : Shape) (l : Nat) : Args :=
  { a := (readOp s c x.a h.a l).val, b := (readOp s c x.b h.b l).val, c := (readOp s c x.c h.c l).val,
    old := if h.old then (readOp s c x.d h.d l).val else 0 }

/-- A lane's poison: any source element, or the guard (R184). -/
def lanePz (s : State) (c : Issue) (x : Fields) (srcs : List Src) (l : Nat) : Bool :=
  srcs.any (fun r => (readOp s c r.op r.regs l).pz) || guardPoisoned c.wave x l

/-- A lane's result. -/
def laneResult (s : State) (c : Issue) (x : Fields) (h : Shape) (f : Args → Result) (l : Nat) : Result :=
  let r := f (laneArgs s c x h l)
  { val := r.val, pz := r.pz || lanePz s c x (h.srcs x) l }

/-- An instruction that computes D from its operands lane by lane and touches nothing else (R184). -/
def alu (s : State) (x : Fields) (h : Shape) (f : Args → Result) : Host.Outcome State Fault Refusal :=
  issue s x (fun c => do
    checkOperands s c (h.srcs x) x.d h.d
    .ok (s.own c (fun w => w.putResult x.d h.d c.active (laneResult s c x h f))))

/-- A result that adds no poison of its own. -/
def plain (v : Nat) : Result := { val := v, pz := false }

/-- Shapes of 32-bit instructions with one, two and three sources. -/
def shape1 : Shape := { d := 1, a := 1, b := 0, c := 0, old := false }
def shape2 : Shape := { d := 1, a := 1, b := 1, c := 0, old := false }
def shape3 : Shape := { d := 1, a := 1, b := 1, c := 1, old := false }

/-- An amount or index that a uniform instruction reads once (R286): an S register, an immediate or ZERO. -/
def uniformVal (s : State) (c : Issue) (o : Operand) (regs : Nat) : Nat := (readOp s c o regs 0).val

/-- The poison of what a uniform instruction writes: its `active` lanes' guards (R258, R275, R286). -/
def guardMark (c : Issue) (x : Fields) (v : Nat) : Nat → Result := fun _ => { val := v, pz := c.guardPz x }

end Sys2Proof.Machine
end

