-- ==== Sys2Proof/Machine/Access.lean ====
section
/-! DEFINITION. Translated accesses of a wave: replayable and precise faults (R134, R374, R377), the private window (R120), code
fetch (R18, R170, R397), and the spill frames of the return stacks (R36). -/

namespace Sys2Proof.Machine

/-- Park the issuing wave on a replayable fault (R374, R375). -/
def park (s : State) (c : Issue) (kind va : Nat) : Stop :=
  .stay (s.openFault (dieOfCluster c.block.cluster) c.part.id kind c.block.cluster c.block.core c.wave.slot va (.wave c.wave.uid))

/-- The die whose walker serves a wave (R358). -/
def Issue.die (c : Issue) : Nat := dieOfCluster c.block.cluster

/-- A walk that ends in a precise fault counts before the instruction takes it (R358, R371). -/
def walkFault (s : State) (c : Issue) (va code detail : Nat) : Stop :=
  .stay ((s.touchPage c.part c.die va).raise c { code := code, detail := BitVec.ofNat 32 detail, addr := BitVec.ofNat 64 va } c.pc)

/-- The physical address of a wave's access that needs R and W as given; `kind` is the fault buffer's (R375). -/
def translate (s : State) (c : Issue) (va : Nat) (r w : Bool) : Except Stop Nat :=
  match lookup s c.part c.die va with
  | .leaf l => if (r && ! l.r) || (w && ! l.w) then .error (walkFault s c va Cause.permission 0) else .ok (l.phys va)
  | .missing true => .error (park (s.touchPage c.part c.die va) c (if w then 1 else 0) va)
  | .missing false => .error (walkFault s c va Cause.xlate 0)
  | .malformed level => .error (walkFault s c va Cause.ptFormat level)
  | .uncorrectable =>
    let a := c.part.badEntry s va
    .error (uncorrectableAt (s.touchPage c.part c.die va) c (State.placeOfAddr a) a)
  | .held => .error .wait

/-- Keep the translations that an access has used (R358, R373), and count a draw for the next choice. -/
def State.cacheVas (s : State) (c : Issue) (vas : List Nat) : State :=
  let s := vas.foldl (fun s va => s.touchPage c.part c.die va) s
  { s with draws := s.draws + 1 }

/-- A lane's private address (R120). -/
def lanePv (c : Issue) (l o : Nat) : Nat := pvAddr c.part (c.wave.lane l).group (c.wave.lane l).member o

/-! ### Bytes as a core reads them -/

/-- A global byte as a core reads it (R122, R123): with race poison where another core holds its sector dirty, and marked
where its unit cannot be corrected (R397). -/
def globalByte (s : State) (core a : Nat) : Byte × Bool :=
  if s.elsewhere core (a / 32) && (s.dirtyOf core (a / 32)).isNone then (s.load a, true)
  else (s.viewByte core a, s.viewBad core a)

/-- A scratchpad byte, marked where its word cannot be corrected. -/
def spadByte (s : State) (csp : Bool) (block a : Nat) : Byte × Bool := (s.spByte csp block a, s.sramIsBad block csp a)

/-- Report the sectors that a read met with an error that could not be corrected (R399). -/
def noteSectors (s : State) (part : Nat) (secs : List Nat) : State :=
  secs.foldl (fun s x =>
    if (List.range 32).any (fun i => s.isBad (32 * x + i)) then s.noteError (State.placeOfAddr (32 * x)) (32 * x) part else s) s

/-- Report the scratchpad words that a read of `n` bytes met with such an error, by their offset (R399). -/
def noteSpad (s : State) (part : Nat) (csp : Bool) (block a n : Nat) : State :=
  (((List.range n).map (fun i => (a + i) / 4 * 4)).eraseDups.filter (s.sramIsBad block csp)).foldl (fun s w => s.noteError 3 w part) s

/-- Report the words of a core's L1 that a read met with such an error (R399). -/
def noteL1 (s : State) (part core : Nat) (secs : List Nat) : State :=
  (s.l1Bad.filter (fun e => e.1 == core && secs.contains (e.2 / 8))).foldl (fun s e => s.noteError 3 (4 * e.2) part) s

/-! ### Code fetch -/

/-- The virtual address of the group's code: the kernel's, or the handler's (R332, R378). -/
def codeBase (c : Issue) : Nat := if c.wave.handler then c.part.xlate.hbase.toNat else c.grid.code

/-- Read one code byte as the instruction path does; it does not reach the private window (R120), and it waits for its home (R125). -/
def fetchByte (s : State) (c : Issue) (va : Nat) : Except Stop Byte := do
  stopIf (inPrivate c.part va 1) (faultAt Cause.permission 0 va)
  let a ← translate s c va true false
  stopIf (! s.homeUp c.part a) .wait
  if s.isBad a then .error (uncorrectableAt s c (State.placeOfAddr a) a) else .ok (s.byte a)

/-- The twelve bytes of the instruction at the group's counter (R169). -/
def fetchBytes (s : State) (c : Issue) : Except Stop (List Byte) :=
  (List.range 12).mapM (fun i => fetchByte s c (codeBase c + c.pc + i))

/-! ### Spill frames (R36) -/

/-- The `.pv` offset of a lane's spill frame `n`. -/
def frameOffset (n : Nat) : Nat := 0xF000 + 64 * n

/-- Write sixteen entries, oldest at the lowest address, as frame `n` of a lane, once its homes have power (R125). -/
def spillFrame (s : State) (c : Issue) (l n : Nat) (entries : List Word) : Except Stop State := do
  let va := lanePv c l (frameOffset n)
  let a ← translate s c va false true
  stopIf ((accessAddrs .pv a 64).any (fun i => ! s.homeUp c.part i)) .wait
  let bytes := entries.flatMap (fun w => natToBytes 4 w.toNat)
  let (age, s) := (s.touchPage c.part c.die va).take
  .ok (s.dirtyBytes c.core c.wave.uid age ((List.zip (accessAddrs .pv a 64) bytes).map (fun b => (b.1, va + (b.1 - a), b.2))))

/-- Frame `n` of a lane has been read: its walk counts, and so do the errors that the read met (R358, R399). -/
def touchFrame (s : State) (c : Issue) (l n : Nat) : State :=
  let va := lanePv c l (frameOffset n)
  let s := s.touchPage c.part c.die va
  match lookup s c.part c.die va with
  | .leaf x => noteL1 (noteSectors s c.part.id (((accessAddrs .pv (x.phys va) 64).filter (fun a => ! s.inL1 c.core a)).map (· / 32)).eraseDups)
      c.part.id c.core ((accessAddrs .pv (x.phys va) 64).map (· / 32)).eraseDups
  | _ => s

/-- A check that comes after reads: a fault of it leaves what the reads have left (R358, R399). -/
def afterReads (s : State) (c : Issue) (e : Except Stop Unit) : Except Stop Unit :=
  match e with
  | .error (.trap t) => .error (.stay (s.raise c t (resumeOffset c t)))
  | e => e

/-- Read frame `n` of a lane, newest entry first, once its homes have power (R125); an entry whose bytes cannot be corrected is
poisoned. -/
def fillFrame (s : State) (c : Issue) (l n : Nat) : Except Stop (List (Word × Bool)) := do
  let a ← translate s c (lanePv c l (frameOffset n)) true false
  stopIf ((accessAddrs .pv a 64).any (fun i => ! s.homeUp c.part i)) .wait
  .ok ((List.range 16).map (fun i =>
    let as_ := (List.range 4).map (fun j => a + 128 * i + j)
    (BitVec.ofNat 32 (bytesToNat (as_.map (s.viewByte c.core))), as_.any (s.viewBad c.core)))).reverse

end Sys2Proof.Machine
end

