-- ==== Sys2Proof/Machine/RecordArea.lean ====
section
/-! DEFINITION. The configuration area of the MRAM: records in two copies, which of them counts, signatures and LMS leaves, signers and
their least versions, and the parts that a sparing map retires (R400, R402-R405). -/

namespace Sys2Proof.Machine

/-! ### Records (R402) -/

/-- KIND. -/
def Content.kind : Content → Nat
  | .identity .. => 1
  | .sparing .. => 2
  | .authority .. => 3
  | .lease .. => 4
  | .versions .. => 5
  | .scrub .. => 6
  | .base .. => 7

/-- MAGIC, and the most that LEN may be. -/
def recordMagic : Nat := 0x4A585243
def recordRoom : Nat := 61440

/-- The layout is a record's (R402). -/
def formOk (f : RecordForm) : Bool := f.magic == recordMagic && f.version == 1 && decide (f.len ≤ recordRoom)

/-- The layout of a record that the module writes. -/
def writtenForm (kind : Nat) : RecordForm := { magic := recordMagic, version := 1, len := Config.payloadBytes kind % (recordRoom + 1) }

/-- The 24 bytes before a record's payload (R402). -/
def recordHeader (f : RecordForm) (kind counter : Nat) : List Byte :=
  natToBytes 4 f.magic ++ natToBytes 4 (kind + f.version * 2 ^ 16) ++ natToBytes 8 counter ++ natToBytes 4 f.len ++ natToBytes 4 0

/-- Length of an LMS signature of H20 and W4 (RFC 8554). -/
def lmsBytes : Nat := 2828

/-- SIG1 and SIG2 of a record with the number `counter`. -/
def signatureBytes (counter : Nat) (sig2 : Sig2) : List Byte :=
  (List.range 96).map (Config.signature counter)
    ++ (List.range lmsBytes).map (fun i => if sig2 = .zero then 0 else Config.signature counter (96 + i))

/-- A record as it stands in the area: header, payload, signatures (R402). -/
def Record.bytes (r : Record) : List Byte :=
  recordHeader r.form r.content.kind r.counter ++ (List.range r.form.len).map (Config.payloadByte r.content.kind r.counter)
    ++ signatureBytes r.counter r.sig2

/-- Leaves of the LMS tree, and those that only scrubs may use (R403). -/
def lmsLeaves : Nat := 2 ^ 20
def lmsOpen : Nat := lmsLeaves - 4096

namespace Security

/-- The LMS tree is spent (R403). -/
def spent (x : Security) : Bool := decide (lmsLeaves ≤ x.lmsIndex)

/-- The layout is a record's and both signatures verify; a zero SIG2 counts on a KIND 6 record alone, once the tree is spent (R402, R403). -/
def valid (x : Security) (r : Record) : Bool :=
  formOk r.form && r.sig1 && (match r.sig2 with | .good => true | .zero => r.content.kind == 6 && x.spent | .bad => false)

/-- The copies of a kind, and its valid copy with the greatest COUNTER (R402). -/
def copies (x : Security) (kind : Nat) : List Record := x.records.filter (fun r => r.content.kind == kind)

def newest (x : Security) (kind : Nat) : Option Record :=
  ((x.copies kind).filter x.valid).foldl (fun best r =>
    match best with | none => some r | some b => if b.counter < r.counter then some r else some b) none

/-- The record's generation and device (KIND 1). -/
def identity (x : Security) : Option (Nat × Nat) := (x.newest 1).bind (fun r => match r.content with | .identity g d => some (g, d) | _ => none)

/-- The parts that the sparing map retires (KIND 2). -/
def retired (x : Security) : List Nat := match (x.newest 2).map Record.content with | some (.sparing ps) => ps | _ => []

/-- The lease authority's COUNTER and keys (KIND 3). -/
def authority (x : Security) : Option (Nat × Keys) :=
  (x.newest 3).bind (fun r => match r.content with | .authority k => some (r.counter, k) | _ => none)

/-- The identifier and the customer keys of the stored lease (KIND 4). -/
def leaseRecord (x : Security) : Option (Nat × Keys) := (x.newest 4).bind (fun r => match r.content with | .lease i k => some (i, k) | _ => none)

/-- The scrub state (KIND 6). -/
def scrub (x : Security) : ScrubRecord :=
  match (x.newest 6).map Record.content with | some (.scrub r) => r | _ => { pending := false, trigger := 0, nonce := 0 }

/-- The active lease: it ends as the scrub begins, at the lease-end record or the recovery reset (R405). -/
def lease (x : Security) : Option (Nat × Keys) := if x.scrub.pending then none else x.leaseRecord

/-- Put a record into the area: beside the copy of its kind or, of two, in place of the one that does not count, so that a write that
is torn leaves a valid copy (R402). -/
def put (x : Security) (r : Record) : Security :=
  match x.copies r.content.kind with
  | a :: b :: _ => { x with records := r :: x.records.erase (if x.newest r.content.kind = some a then b else a) }
  | _ => { x with records := r :: x.records }

/-- The COUNTER of the next rewrite of a kind, torn copies among those it exceeds (log 70). -/
def nextCounter (x : Security) (kind : Nat) : Nat := ((x.copies kind).map Record.counter).foldl max 0 + 1

/-- SIG2 as the module can make it: with a leaf, or zero bytes once the tree is spent. -/
def sig2 (x : Security) : Sig2 := if x.spent then .zero else .good

/-- One leaf is used: the index advances before the signature leaves (R403). -/
def advance (x : Security) : Security := { x with lmsIndex := min lmsLeaves (x.lmsIndex + 1) }

/-- The module signs a record and writes it into the older copy; a torn write leaves bytes that no signature fits (R402, R403). -/
def write (x : Security) (c : Content) (torn : Bool) : Security :=
  x.advance.put { counter := x.nextCounter c.kind, form := writtenForm c.kind, content := c, sig1 := ! torn, sig2 := if torn then .bad else x.sig2 }

/-- An identity record that comes into force and raises the key generation begins a new LMS tree (R403). -/
def adopt (x : Security) (i : IdentityInput) : Security :=
  let y := x.put { counter := i.counter, form := i.form, content := .identity i.generation i.device, sig1 := true, sig2 := .good }
  let raised := x.identity.any (fun o => y.identity.any (fun n => decide (o.1 < n.1)))
  { y with lmsIndex := if raised then 0 else x.lmsIndex }

end Security

/-! ### Signers (R404) -/

/-- A signer class (R404). -/
inductive Signer where
  | thadin | authority | customer
  deriving DecidableEq, Repr

/-- The keys whose hashes the ROM holds (R404). -/
def romKeys : Keys := { ecdsa := 0, lms := 0 }

/-- Both signatures verify, each under a key that belongs to the signer. -/
def Security.accepts (x : Security) (g : Signed) (who : Signer) : Bool :=
  g.ecdsaOk && g.lmsOk && (match who with
    | .thadin => g.keys == romKeys
    | .authority => x.authority.any (fun a => g.keys == a.2)
    | .customer => x.lease.any (fun l => g.keys == l.2))

/-- The least version of a signer class (KIND 5). The customer class's returns to 0 at each lease end, and nothing raises it. -/
def Security.least (x : Security) (who : Signer) : Nat :=
  match (x.newest 5).map Record.content, who with
  | some (.versions t _), .thadin => t
  | some (.versions _ a), .authority => a
  | _, _ => 0

/-- The signer class of an image among those it may come from, if Matins accepts it: its signatures are that signer's, and its version is
not below the minimum. -/
def Security.signerOf (x : Security) (from_ : List Signer) (i : Option Signed) : Option Signer :=
  i.bind (fun g => from_.find? (fun who => x.accepts g who && decide (x.least who ≤ g.version)))

/-- The base image: of the KIND 7 records whose signatures are the lease authority's or Thadin's, the one with the greatest COUNTER (R402,
R404). -/
def Security.baseImage (x : Security) : Option Signed :=
  (((x.copies 7).filter (fun r => formOk r.form && (match r.content with
      | .base g => x.accepts g .authority || x.accepts g .thadin
      | _ => false))).foldl (fun best r =>
    match best with | none => some r | some b => if b.counter < r.counter then some r else some b) none).bind (fun r =>
      match r.content with | .base g => some g | _ => none)

/-- A base image record stands in the area (R402). -/
def Security.takeBase (x : Security) (b : BaseInput) : Security :=
  x.put { counter := b.counter, form := b.form, content := .base b.signed, sig1 := b.signed.ecdsaOk,
          sig2 := if b.signed.lmsOk then .good else .bad }

/-- Accepting a Thadin or lease-authority image of a higher version raises the minimum, while leaves beyond the reserve are left
(R403, R404). -/
def Security.raiseLeast (x : Security) (who : Signer) (version : Nat) : Security :=
  if who = .customer ∨ version ≤ x.least who ∨ lmsOpen ≤ x.lmsIndex then x
  else x.write (.versions (if who = .thadin then version else x.least .thadin) (if who = .authority then version else x.least .authority)) false

/-- A patch table of Matins is taken from Thadin alone (R404). -/
def Security.takePatch (x : Security) (g : Signed) : Security :=
  if x.signerOf [.thadin] (some g) = some .thadin then { x.raiseLeast .thadin g.version with patched := some g.version } else x

/-! ### Retired parts (R400) -/

/-- Numbers of parts in a sparing map: physical core `k` of a cluster, a stack's first pseudo-channel, a bank of a die (log 58). -/
def corePart (cl k : Nat) : Nat := 8 * cl + k
def channelPart (domain : Nat) : Nat := 4096 + domain
def bankPart (die bank : Nat) : Nat := 8192 + 8 * die + bank

/-- The physical core behind a logical one: the spare, number 4, where it has come in (R23). -/
def Cluster.physicalCore (c : Cluster) (core : Nat) : Nat := if c.spared = some core then Config.coresPerCluster else core

/-- The map retires a physical core of the cluster. -/
def State.coreRetired (s : State) (cl k : Nat) : Bool := s.module.security.retired.contains (corePart cl k)

/-- The core that stands behind a logical one is not retired; one that is retired is never used again (R400). -/
def State.coreUsable (s : State) (cl core : Nat) : Bool := ! s.coreRetired cl ((s.cluster cl).physicalCore core)

/-- As a cluster's image is restored or its partition is created, the spare core comes in, once, for a core that the map retires: for
`core` if it is one, else for the first. A spare that is retired itself does not (R400). -/
def State.applySpare (s : State) (cl core : Nat) : State :=
  let out := (List.range Config.coresPerCluster).filter (s.coreRetired cl)
  if s.coreRetired cl Config.coresPerCluster then s
  else s.onCluster cl (fun c => { c with spared := c.spared.or (if out.contains core then some core else out.head?) })

end Sys2Proof.Machine
end

