-- ==== Sys2Proof/Machine/LoadStore.lean ====
section
/-! DEFINITION. Loads, stores, weight-store loads, prefetch, per-lane copies and the poison instructions, as they issue (R233-R246);
what completes them stands in Returns.lean. -/

namespace Sys2Proof.Machine

/-! ### Shapes of accesses -/

/-- Bytes of an access of a type (R234). -/
def tySize : Ty → Nat
  | .s8 | .n8 => 1
  | .s16 | .n16 => 2
  | .s64 | .n64 => 8
  | .a128 => 16
  | _ => 4

/-- Registers of an address in a space (R233). -/
def addrRegs (spc : Space) : Nat := if spc = .g then 2 else 1

def isVReg : Operand → Bool
  | .v _ => true
  | _ => false

/-- The lanes that perform an access: every lane of `active`, or one when the instruction is uniform (R235). -/
def accessLanes (c : Issue) (ops : List Operand) : List Nat := if ops.any isVReg then c.active else c.active.take 1

/-- The effective address of lane `l` (R234). -/
def effAddr (s : State) (c : Issue) (spc : Space) (addr off : Operand) (l : Nat) : Nat :=
  if spc = .g then (((readOp s c addr 2 l).val : Int) + signed 32 (readOp s c off 1 l).val) % (2 ^ 64 : Nat) |>.toNat
  else ((readOp s c addr 1 l).val + (readOp s c off 1 l).val) % 2 ^ 32

/-- The scope that an access acts with (R137). -/
def actingScope (spc : Space) (sc : Scope) : Scope :=
  match spc with
  | .sp => .bk
  | .csp => if sc.wideSd then .cl else sc
  | _ => sc

/-- The block whose cluster scratchpad a `.csp` address names (R119). -/
def cspOwnerOf (s : State) (g : Grid) (b : Block) (a : Nat) : Option Block :=
  if a.testBit 30 then none
  else if ! a.testBit 31 then some b
  else
    let rank := a / 2 ^ 24 % 64
    if g.group ≤ rank || b.task then none
    else s.blocks.find? (fun k => k.grid == g.id && ! k.task && k.lin == b.lin / g.group * g.group + rank)

def cspOwner (s : State) (c : Issue) (a : Nat) : Option Block := cspOwnerOf s c.grid c.block a

/-- The offset part of a `.csp` address (R119). -/
def cspOffset (a : Nat) : Nat := a % 2 ^ 24

/-- The access lies within a grant (R118, R119). -/
def inGrant (s : State) (c : Issue) (spc : Space) (a n : Nat) : Bool :=
  match spc with
  | .sp => decide (a + n ≤ c.block.alloc.spm * Config.spmBytes)
  | .csp => match cspOwner s c a with
    | some b => decide (cspOffset a + n ≤ b.alloc.csp * Config.cspBytes)
    | none => false
  | _ => true

/-- A fault that a lane's address takes, if `bad` holds of it, reported for the lowest such lane. -/
def laneFault (ls : List (Nat × Nat)) (bad : Nat → Bool) (e : Nat → Stop) : Except Stop Unit :=
  match ls.find? (fun t => bad t.2) with
  | some t => .error (e t.2)
  | none => .ok ()

/-- A row of R118: which addresses of a space take its fault, and the fault. -/
abbrev RangeRow := (Space → Nat → Bool) × (Nat → Stop)

/-- The rows of R118 in the order of its table, for accesses of `n` bytes. -/
def rangeRows (s : State) (c : Issue) (n : Nat) : List RangeRow :=
  [(fun _ a => a % n != 0, faultAt Cause.misaligned 0),
   (fun spc a => spc == .g && decide (2 ^ 58 ≤ a), faultAt Cause.addrRange 0),
   (fun spc a => ! inGrant s c spc a n, fun _ => fault Cause.grantRange 0),
   (fun spc a => spc == .pv && decide (0xF000 < a + n), faultAt Cause.pvReserved 0),
   (fun spc a => spc == .k && decide (c.grid.ksize < a + n), faultAt Cause.constRange 0),
   (fun spc a => spc == .g && inPrivate c.part a n, faultAt Cause.permission 0)]

/-- The rows of R118 one after another, each over all the sides of an access: a space with the lanes' addresses there (log 56). -/
def checkSides (sides : List (Space × List (Nat × Nat))) : List RangeRow → Except Stop Unit
  | [] => .ok ()
  | r :: t => do
    sides.forM (fun d => laneFault d.2 (r.1 d.1) r.2)
    checkSides sides t

/-- The checks of R118 for an access with one side. -/
def checkRange (s : State) (c : Issue) (spc : Space) (n : Nat) (ls : List (Nat × Nat)) : Except Stop Unit :=
  checkSides [(spc, ls)] (rangeRows s c n)

/-- Where a lane's address lies: physical address and virtual address for the global spaces, offset and owner for the others. -/
def locate (s : State) (c : Issue) (spc : Space) (l a : Nat) (r w : Bool) : Except Stop (Nat × Nat × Nat) :=
  match spc with
  | .g => (translate s c a r w).map (fun p => (p, a, 0))
  | .pv => let va := lanePv c l a; (translate s c va r w).map (fun p => (p, va, 0))
  | .sp => .ok (a, 0, c.block.uid)
  | .csp => match cspOwner s c a with
    | some b => .ok (cspOffset a, 0, b.uid)
    | none => .error (fault Cause.grantRange 0)
  | .k => .ok (a, 0, 0)

/-- The virtual addresses that a lane's access has translated: one in the global spaces, none in the others (R134). -/
def accessVas (c : Issue) (spc : Space) (t : Nat × Nat) : List Nat :=
  match spc with
  | .g => [t.2]
  | .pv => [lanePv c t.1 t.2]
  | _ => []

/-- An access with nothing but its lane and place. -/
def Access.at_ (l : Nat) (p : Nat × Nat × Nat) : Access :=
  { lane := l, addr := p.1, va := p.2.1, owner := p.2.2, src := 0, sown := 0, data := [], b := 0, c := 0 }

/-! ### Counters and ranges -/

/-- The range counts that one access enters, as bits; bit 8 is OTHER (R87). -/
def rangeBits (w : Wave) (spc : Space) (a n : Nat) : BitVec 9 :=
  let hit := if spc = .g then (List.range 8).filter (fun i => ((w.g.getD i { base := 0, limit := 0 })).overlaps a n) else []
  if hit.isEmpty then BitVec.twoPow 9 8 else hit.foldl (fun m i => m ||| BitVec.twoPow 9 i) 0

/-- The range counts that an instruction enters: every one that some lane enters. -/
def allRangeBits (w : Wave) (spc : Space) (n : Nat) (as_ : List Nat) : BitVec 9 :=
  as_.foldl (fun m a => m ||| rangeBits w spc a n) 0

/-- A wave's count for a range: its uncompleted operations and copies that entered it (R87). -/
def rangeCount (s : State) (w : Wave) (i : Nat) : Nat :=
  (w.pend.filter (fun p => ! p.done && p.ranges.getLsbD i)).length
    + (s.copies.filter (fun k => k.wave == w.uid && k.ranges.getLsbD i)).length

/-- An instruction that would take a count above 63 waits at issue (R87, R91). -/
def checkCounts (s : State) (w : Wave) (cls : Option Nat) (ranges : BitVec 9) : Except Stop Unit := do
  stopIf ((List.range 9).any (fun i => ranges.getLsbD i && decide (63 ≤ rangeCount s w i))) .wait
  match cls with
  | some k => stopIf (decide (63 ≤ w.counter k)) .wait
  | none => .ok ()

/-! ### Order within a wave -/

/-- A space whose bytes lie in physical memory. -/
def isGlobal (spc : Space) : Bool := spc == .g || spc == .pv

/-- A place in memory at sector grain: kind of storage, owner, sector. -/
abbrev Spot := Nat × Nat × Nat

def spots (spc : Space) (owner a n : Nat) : List Spot :=
  match spc with
  | .g | .pv => ((accessAddrs spc a n).map (fun b => (0, 0, b / 32))).eraseDups
  | .sp => [(1, owner, a / 32)]
  | .csp => [(2, owner, a / 32)]
  | .k => []

/-- The sectors that an operation has not touched yet, source and destination. -/
def Pend.spots (p : Pend) : List Spot :=
  if p.kind = .loadWs then []
  else p.left.flatMap (fun a => Machine.spots p.space a.owner a.addr p.size
    ++ (if p.kind = .copy then Machine.spots p.sspace a.sown a.src p.size else []))

def meet (a b : List Spot) : Bool := a.any b.contains

/-- An access that touches a sector of an atomic not yet performed waits at issue (R241). -/
def behindAtomic (w : Wave) (spc : List Spot) : Bool :=
  w.pend.any (fun p => (p.kind == .atomic || p.kind == .reduce) && meet p.spots spc)

/-- The operation is a load, whose place in the order its data return keeps. -/
def Pend.isLoad (p : Pend) : Bool := p.kind == .load || p.kind == .loadWs

/-- An atomic waits until the wave's earlier stores and copies to its sectors have left the store buffer (R241). -/
def behindWrites (w : Wave) (spc : List Spot) : Bool :=
  w.pend.any (fun p => ! p.isLoad && p.kind != .atomic && p.kind != .reduce && meet p.spots spc)

/-- A tile access waits until the wave's earlier accesses to its sectors are performed (R140). -/
def behindAny (w : Wave) (spc : List Spot) : Bool := w.pend.any (fun p => meet p.spots spc)

/-- Older operations of the copy's wave that have still to touch these sectors (R140, R147). -/
def copyBlocked (s : State) (k : Copy) (sp : List Spot) : Bool :=
  (s.wave? k.wave).any (fun w => w.pend.any (fun q => decide (q.seq < k.seq) && meet q.spots sp))

/-- An acquire, or a CHRECV whose message is not taken, holds the wave's later accesses (R240, R250, R300). -/
def accessHeld (w : Wave) : Bool :=
  w.pend.any (fun p => ! p.done && (p.order == .acq || p.order == .ar || p.kind == .receive))

/-- Earlier operations that a release by the given lanes carries and that are not performed: what it waits for (R240, R138). -/
def unperformed (w : Wave) (lanes : BitVec 32) (before : Nat) : Bool :=
  w.pend.any (fun p => decide (p.id < before) && ! p.left.isEmpty && (p.carried &&& lanes) != 0)

/-- After a WB0 every lane's later releases carry what any lane has issued (R138). -/
def Wave.joinLanes (w : Wave) : Wave := { w with pend := w.pend.map (fun p => { p with carried := BitVec.allOnes 32 }) }

/-- The lanes that make one access of an operation (R235). -/
def Pend.lanesOf (p : Pend) (a : Access) : BitVec 32 := if p.uniform then p.lanes else BitVec.twoPow 32 a.lane

/-! ### Issuing an operation -/

/-- An operation with the common fields; the rest is set by the instruction. -/
def Pend.base (kind : OpKind) (cls : Option Nat) (x : Fields) (size : Nat) (lanes : List Nat) (left : List Access)
    (ranges : BitVec 9) : Pend :=
  { id := 0, kind := kind, cls := cls, dst := x.d, size := size, signed := false, alu := 0, space := x.space, sspace := .g,
    order := x.order, scope := actingScope x.space x.scope, left := left, lanes := maskOf lanes, uniform := left.length == 1,
    carried := maskOf lanes, ranges := ranges, seq := 0, rank := 0, done := false }

/-- The wave with one more operation under way: it counts from now on (R91, R92). -/
def Wave.begin_ (w : Wave) (p : Pend) (seq : Nat) : Wave :=
  let at_ := p.cls.getD 6
  let rank := w.issued.getD at_ 0
  { w with pend := w.pend ++ [{ p with id := w.nextOp, seq := seq, rank := rank }], nextOp := w.nextOp + 1,
           issued := w.issued.set at_ (rank + 1) }

/-- Add an operation to the issuing wave's list. -/
def State.addPend (s : State) (c : Issue) (p : Pend) : State :=
  let (n, s) := s.take
  s.own c (fun w => w.begin_ p n)

/-- The checks that every access of this chapter makes before its addresses (R236 steps 1 and 2); poisoned data of any ST
fault here (log 62). -/
def checkAccess (s : State) (c : Issue) (x : Fields) (srcs : List Src) (d : Operand) (dregs : Nat) : Except Stop Unit := do
  checkOperands s c srcs d dregs
  c.guardUse x
  checkPoison s c srcs

def execLd (x : Fields) (s : State) : Host.Outcome State Fault Refusal :=
  let t := effectiveTy .ld x
  let n := tySize t
  issue s x (fun c => do
    checkAccess s c x [srcA x (addrRegs x.space), srcB x 1] x.d t.regs
    if c.active.isEmpty then .ok s
    else
      let ls := (accessLanes c [x.d, x.a, x.b]).map (fun l => (l, effAddr s c x.space x.a x.b l))
      checkRange s c x.space n ls
      let left ← ls.mapM (fun t => (locate s c x.space t.1 t.2 true false).map (Access.at_ t.1))
      let ranges := allRangeBits c.wave x.space n (ls.map Prod.snd)
      let p : Pend := { Pend.base .load (some 0) x n c.active left ranges with signed := t == .s8 || t == .s16 }
      stopIf (accessHeld c.wave || behindAtomic c.wave p.spots) .wait
      checkCounts s c.wave (some 0) ranges
      let s := s.cacheVas c (ls.flatMap (accessVas c x.space))
      .ok ((s.own c (fun w => w.markEmpty x.d t.regs c.active)).addPend c p))

/-- The bytes that lane `l` stores (R238). -/
def storeBytes (s : State) (c : Issue) (data : Operand) (t : Ty) (l : Nat) : List Byte :=
  natToBytes (tySize t) (readOp s c data t.regs l).val

def execSt (x : Fields) (s : State) : Host.Outcome State Fault Refusal :=
  let t := effectiveTy .st x
  let n := tySize t
  issue s x (fun c => do
    checkAccess s c x [srcD x (addrRegs x.space), srcA x t.regs, srcB x 1] .zero 1
    if c.active.isEmpty then .ok s
    else
      let ls := (accessLanes c [x.d, x.a, x.b]).map (fun l => (l, effAddr s c x.space x.d x.b l))
      checkRange s c x.space n ls
      let left ← ls.mapM (fun a => (locate s c x.space a.1 a.2 false true).map (fun p =>
        { Access.at_ a.1 p with data := storeBytes s c x.a t a.1 }))
      let ranges := allRangeBits c.wave x.space n (ls.map Prod.snd)
      let p : Pend := { Pend.base .store (some 1) x n c.active left ranges with dst := .zero }
      stopIf (accessHeld c.wave || behindAtomic c.wave p.spots) .wait
      checkCounts s c.wave (some 1) ranges
      .ok ((s.cacheVas c (ls.flatMap (accessVas c x.space))).addPend c p))

/-- A weight-store handle with a reserved bit set (R126). -/
def badHandle (h : Nat) : Bool := decide (2 ^ 20 ≤ h)

def execLdw (x : Fields) (s : State) : Host.Outcome State Fault Refusal :=
  let t := effectiveTy .ldw x
  let n := tySize t
  issue s x (fun c => do
    checkAccess s c x [srcA x 1, srcB x 1] x.d t.regs
    if c.active.isEmpty then .ok s
    else
      let lanes := accessLanes c [x.d, x.a, x.b]
      stopIf (lanes.any (fun l => badHandle (readOp s c x.a 1 l).val)) (fault Cause.illegal 2)
      let ls := lanes.map (fun l => (l, (readOp s c x.a 1 l).val * 4096 + (readOp s c x.b 1 l).val))
      laneFault ls (fun a => a % n != 0) (faultAt Cause.misaligned 0)
      laneFault ls (fun a => decide (c.part.wsBytes < a + n)) (fun _ => fault Cause.wsRange 0)
      let other := BitVec.twoPow 9 8
      let p := Pend.base .loadWs (some 0) x n c.active (ls.map (fun a => Access.at_ a.1 (a.2, 0, 0))) other
      stopIf (accessHeld c.wave) .wait
      checkCounts s c.wave (some 0) other
      .ok ((s.own c (fun w => w.markEmpty x.d t.regs c.active)).addPend c p))

/-- PREF's only checks are those of steps 1 and 2; it changes no visible state (R243). -/
def execPref (x : Fields) (s : State) : Host.Outcome State Fault Refusal :=
  issue s x (fun c => do
    checkAccess s c x [srcA x 2, srcB x 1] .zero 1
    .ok s)

/-- The source space that CPL, ACST and ACLD carry in OPT (R233). -/
def optSpace (x : Fields) : Space := (spaceOf (x.opt.toNat % 8)).getD .g

def execCpl (x : Fields) (s : State) : Host.Outcome State Fault Refusal :=
  let n := tySize (effectiveTy .cpl x)
  let ss := optSpace x
  issue s x (fun c => do
    checkAccess s c x [srcD x (addrRegs x.space), srcA x (addrRegs ss)] .zero 1
    if c.active.isEmpty then .ok s
    else
      let lanes := accessLanes c [x.d, x.a]
      let ds := lanes.map (fun l => (l, effAddr s c x.space x.d .zero l))
      let ss_ := lanes.map (fun l => (l, effAddr s c ss x.a .zero l))
      checkSides [(x.space, ds), (ss, ss_)] (rangeRows s c n)
      let left ← lanes.mapM (fun l => do
        let d ← locate s c x.space l (effAddr s c x.space x.d .zero l) false true
        let a ← locate s c ss l (effAddr s c ss x.a .zero l) true false
        .ok { Access.at_ l d with src := a.1, sown := a.2.2 })
      let global := (if x.space = .g then allRangeBits c.wave .g n (ds.map Prod.snd) else 0)
        ||| (if ss = .g then allRangeBits c.wave .g n (ss_.map Prod.snd) else 0)
      let ranges := if x.space = .g ∨ ss = .g then global else BitVec.twoPow 9 8
      let p : Pend := { Pend.base .copy (some 2) x n c.active left ranges with sspace := ss, dst := .zero }
      stopIf (accessHeld c.wave || behindAtomic c.wave p.spots) .wait
      checkCounts s c.wave (some 2) ranges
      .ok ((s.cacheVas c (ds.flatMap (accessVas c x.space) ++ ss_.flatMap (accessVas c ss))).addPend c p))

/-! ### Poison instructions (R246) -/

/-- PTEST delivers the tag itself; one S result for lanes whose predicate tags differ has no stated value (log 4). -/
def execPtest (x : Fields) (s : State) : Host.Outcome State Fault Refusal :=
  issue s x (fun c => do
    checkOperands s c [srcA x 1] x.d 1
    let tag := fun l => (readOp s c x.a 1 l).pz
    let mixed := (match x.d, x.a with | .s _, .p _ => true | _, _ => false) && c.active.any tag && ! c.active.all tag
    let val := fun l => if mixed then (Config.freeByte s.draws).toNat % 2 else (tag l).toNat
    let s := if mixed then { s with draws := s.draws + 1 } else s
    .ok (s.own c (fun w => w.putResult x.d 1 c.active (fun l => plain (val l)))))

/-- A copy of A with the poison bit clear (R246; across classes log 66). -/
def execPclr (x : Fields) (s : State) : Host.Outcome State Fault Refusal :=
  let n := (effectiveTy .pclr x).regs
  issue s x (fun c => do
    checkOperands s c [srcA x n] x.d n
    .ok (s.own c (fun w => w.putResult x.d n c.active (fun l => plain (readOp s c x.a n l).val))))

end Sys2Proof.Machine
end

