-- ==== Sys2Proof/Machine/Atomics.lean ====
section
/-! DEFINITION. ATOM, CAS and RED as they issue, and the new values their homes compute (R145, R241, R247-R250). -/

namespace Sys2Proof.Machine

/-- The new value of an operation code (R247; 7 is CAS), on `n`-bit values. -/
def atomicNew (alu n : Nat) (sgn : Bool) (old b c : Nat) : Nat :=
  match alu with
  | 0 => (old + b) % 2 ^ n
  | 1 => if num sgn n old ≤ num sgn n b then old else b
  | 2 => if num sgn n old ≤ num sgn n b then b else old
  | 3 => old &&& b
  | 4 => old ||| b
  | 5 => old ^^^ b
  | 6 => b
  | _ => if old = b then c else old
where
  num (sgn : Bool) (n v : Nat) : Int := if sgn then signed n v else (v : Int)

/-- Release before an atomic's request leaves, or a CHSEND, an OPEN or a barrier arrival counts: at `.cl` or wider the core's
dirty sectors are written back; it waits while some home has no power (R240, R250), and an error that a write-back meets faults the
instruction (R397). -/
def releaseFlush (s : State) (c : Issue) (scope : Scope) : Except Stop State :=
  if scope.wideCl then do
    let mine := fun (d : Dirty) => d.core == c.core
    let bad := s.flushBad c.part mine
    let s := s.flush c.part mine
    stopIf bad (.stay (s.raise c uncorrectableTrap c.pc))
    stopIf (s.dirty.any mine) .wait
    .ok s
  else .ok s

/-- The requests of one instruction, one for each home, which arrive in order of issue (R248; log 67). -/
def makeRequests (s : State) (c : Issue) (p : Pend) (reply : Bool) (op : Nat) : State :=
  let homes := ((p.left.map (fun a => homeOf c.part a.addr)).eraseDups)
  homes.foldl (fun s h =>
    let (n, s) := s.take
    let r : Request := { id := n, home := h, wave := c.wave.uid, op := op, core := c.core, alu := p.alu, size := p.size,
                         signed := p.signed, reply := reply, accesses := p.left.filter (fun a => homeOf c.part a.addr == h),
                         order := p.order, scope := p.scope, performed := false, olds := [],
                         held := (s.cluster h).service.next.isSome }
    { s with requests := s.requests ++ [r] }) s

/-- The bits of an atomic operand, an immediate sign-extended to the width (R247). -/
def atomOperand (s : State) (c : Issue) (o : Operand) (t : Ty) (l : Nat) : DWord := BitVec.ofNat 64 (readOp s c o t.regs l).val

/-- ATOM, CAS and RED: `addr`, `b` and `cc` are their address and operands, `alu` the operation. -/
def atomic (op : Op) (alu : Nat) (reply : Bool) (x : Fields) (addr b cc : Fields → Nat → Src) (s : State) :
    Host.Outcome State Fault Refusal :=
  let t := effectiveTy op x
  let n := tySize t
  let d := if reply then x.d else Operand.zero
  issue s x (fun c => do
    let sa := addr x 2
    let sb := b x t.regs
    let sc := cc x t.regs
    checkAccess s c x [sa, sb, sc] d t.regs
    if c.active.isEmpty then .ok s
    else
      let ls := (accessLanes c [d, sa.op, sb.op, sc.op]).map (fun l => (l, (readOp s c sa.op 2 l).val))
      checkRange s c .g n ls
      let left ← ls.mapM (fun a => (locate s c .g a.1 a.2 reply true).map (fun p =>
        { Access.at_ a.1 p with b := atomOperand s c sb.op t a.1, c := atomOperand s c sc.op t a.1 }))
      let ranges := allRangeBits c.wave .g n (ls.map Prod.snd)
      let cls := if reply then 3 else 4
      let base := Pend.base (if reply then .atomic else .reduce) (some cls) x n c.active left ranges
      let p : Pend := { base with dst := d, alu := alu, signed := t == .s32 || t == .s64, space := .g }
      let rel := x.order == .rel || x.order == .ar
      stopIf (accessHeld c.wave || behindWrites c.wave p.spots) .wait
      stopIf (rel && unperformed c.wave (maskOf c.active) c.wave.nextOp) .wait
      checkCounts s c.wave (some cls) ranges
      let s ← if rel then releaseFlush s c x.scope else .ok s
      let s := s.dropClean (fun k => k.core == c.core && p.spots.any (fun q => q.2.2 == k.sector))
      let s := (s.cacheVas c (left.map Access.va)).own c (fun w => w.markEmpty d t.regs c.active)
      .ok ((makeRequests s c p reply c.wave.nextOp).addPend c p))

/-- An operand position that an instruction does not have. -/
def noSrc (_ : Fields) (n : Nat) : Src := { op := .zero, regs := n, trap := false, place := 0 }

def execAtomAdd (x : Fields) (s : State) : Host.Outcome State Fault Refusal := atomic .atomAdd 0 true x srcA srcB noSrc s
def execAtomMin (x : Fields) (s : State) : Host.Outcome State Fault Refusal := atomic .atomMin 1 true x srcA srcB noSrc s
def execAtomMax (x : Fields) (s : State) : Host.Outcome State Fault Refusal := atomic .atomMax 2 true x srcA srcB noSrc s
def execAtomAnd (x : Fields) (s : State) : Host.Outcome State Fault Refusal := atomic .atomAnd 3 true x srcA srcB noSrc s
def execAtomOr (x : Fields) (s : State) : Host.Outcome State Fault Refusal := atomic .atomOr 4 true x srcA srcB noSrc s
def execAtomXor (x : Fields) (s : State) : Host.Outcome State Fault Refusal := atomic .atomXor 5 true x srcA srcB noSrc s
def execAtomExch (x : Fields) (s : State) : Host.Outcome State Fault Refusal := atomic .atomExch 6 true x srcA srcB noSrc s
def execCas (x : Fields) (s : State) : Host.Outcome State Fault Refusal := atomic .cas 7 true x srcA srcB srcC s
def execRedAdd (x : Fields) (s : State) : Host.Outcome State Fault Refusal := atomic .redAdd 0 false x srcD srcA noSrc s
def execRedMin (x : Fields) (s : State) : Host.Outcome State Fault Refusal := atomic .redMin 1 false x srcD srcA noSrc s
def execRedMax (x : Fields) (s : State) : Host.Outcome State Fault Refusal := atomic .redMax 2 false x srcD srcA noSrc s
def execRedAnd (x : Fields) (s : State) : Host.Outcome State Fault Refusal := atomic .redAnd 3 false x srcD srcA noSrc s
def execRedOr (x : Fields) (s : State) : Host.Outcome State Fault Refusal := atomic .redOr 4 false x srcD srcA noSrc s
def execRedXor (x : Fields) (s : State) : Host.Outcome State Fault Refusal := atomic .redXor 5 false x srcD srcA noSrc s

end Sys2Proof.Machine
end

