-- ==== Sys2Proof/Machine/Shadow.lean ====
section
/-! DEFINITION. The shadow images of a cluster: what they hold, which granules are dirty, how the open one
closes, and the backlog (R387-R389). -/

namespace Sys2Proof.Machine

/-- The waves, dirty sectors and copies that belong to a cluster. -/
def State.clusterWaves (s : State) (cl : Nat) : List Wave :=
  s.waves.filter (fun w => (s.residents cl).any (fun b => b.uid == w.block))

def inCluster (cl core : Nat) : Bool := core / Config.coresPerCluster == cl

def State.clusterCopies (s : State) (cl : Nat) : List Copy :=
  s.copies.filter (fun k => k.kind != .packet && k.kind != .wsload && (s.residents cl).any (fun b => b.uid == k.block))

/-- The CB barriers of the groups of a grid that have a block placed in the cluster (R287, R387). -/
def Grid.cbIn (g : Grid) (cl : Nat) : Sparse Barrier :=
  g.cb.filter (fun e => g.placed.any (fun b => b.2 == cl && b.1 / g.group == e.1 / 16))

/-- The shadowed state of a cluster as an image (R387). -/
def State.snapshot (s : State) (cl epoch : Nat) (complete current : Bool) : Image :=
  { epoch := epoch, complete := complete, current := current, waves := s.clusterWaves cl, blocks := s.residents cl,
    dirty := s.dirty.filter (fun d => inCluster cl d.core), copies := s.clusterCopies cl, gck := (s.cluster cl).gck,
    cb := s.grids.map (fun g => (g.id, g.cbIn cl)),
    superseded := [], answered := [] }

/-- Image A is the newest closed one, so B is open. -/
def Cluster.openIsB (c : Cluster) : Bool := c.imageA.any (fun i => i.epoch == c.epoch)

/-- The closed image goes back to write-behind: no longer complete, its supersession record cleared (R388, R391). -/
def Image.reopen (i : Image) : Image := { i with complete := false, current := false, superseded := [], answered := [] }

/-- Close the open image (R388): the other one becomes the open one, unless the closure is a loss's or a pre-emption's. -/
def State.closeImage (s : State) (cl : Nat) (current torn : Bool) : State :=
  let c := s.cluster cl
  let i := s.snapshot cl (c.epoch + 1) (! torn) current
  let keep := fun (o : Option Image) => if current then o else o.map Image.reopen
  let c := if c.openIsB then { c with imageA := keep c.imageA, imageB := some i }
           else { c with imageA := some i, imageB := keep c.imageB }
  s.setCluster cl { c with epoch := if torn then c.epoch else c.epoch + 1, torn := torn, dirtyOpen := c.dirtyClosed,
                           dirtyClosed := [], lastClose := s.module.time }

/-! ### Dirty granules (R387; log 11 says which state shares one) -/

/-- The keys at which two sparse maps differ. -/
def Sparse.changed {α : Type} [DecidableEq α] (a b : Sparse α) : List Nat :=
  if a = b then [] else (a.filter (fun e => ! b.contains e) ++ b.filter (fun e => ! a.contains e)).map Prod.fst

/-- The granules of a wave's registers, and of a block's scratchpads and tile slots, beyond an allocation. -/
def Wave.beyond (w : Wave) (reg : Nat) : List Granule :=
  ((List.range (ceilDiv w.regAlloc 4)).drop (ceilDiv reg 4)).map (.regs w.uid)

def Block.beyond (b : Block) (a : Amounts) : List Granule :=
  ((List.range b.alloc.spm).drop a.spm).map (.spm b.uid) ++ ((List.range (16 * b.alloc.csp)).drop (16 * a.csp)).map (.csp b.uid)
    ++ ((List.range (4 * b.alloc.acc)).drop (4 * a.acc)).map (.acc b.uid)

/-- The granules that a wave and a block occupy. -/
def Wave.granules (w : Wave) : List Granule := .wave w.uid :: w.beyond 0

def Block.granules (b : Block) : List Granule := .block b.uid :: b.beyond .none

/-- The granule of a dirty sector. -/
def Dirty.granule (d : Dirty) : Granule := .l1 d.core (d.sector / 128)

/-- All granules that a cluster's shadowed state occupies. -/
def State.granules (s : State) (cl : Nat) : List Granule :=
  .cluster :: (s.clusterWaves cl).flatMap Wave.granules ++ (s.residents cl).flatMap Block.granules
    ++ ((s.dirty.filter (fun d => inCluster cl d.core)).map Dirty.granule).eraseDups

/-- The granules of a wave that have been written, whatever they held before, or differ from what they were; those newly granted have
been cleared (R56). -/
def Wave.touched (old new : Wave) : List Granule :=
  (if { old with v := new.v, written := new.written } = new then [] else [.wave new.uid])
    ++ (Sparse.changed old.written new.written).map (.regs new.uid)
    ++ (Sparse.changed old.v new.v).map (fun k => .regs new.uid (k / 1024)) ++ new.beyond old.regAlloc

/-- The granule that a block's counter of writes stands for (R387). -/
def Block.granuleOf (uid key : Nat) : Granule :=
  match key % 4 with
  | 0 => .spm uid (key / 4)
  | 1 => .csp uid (key / 4)
  | 2 => .acc uid (key / 4)
  | _ => .block uid

/-- The quarters of a tile slot that differ. -/
def Acc.touched (old new : Acc) : List Nat :=
  (if { old with elems := new.elems } = new then [] else [0]) ++ (Sparse.changed old.elems new.elems).map (· / 256)

def Block.touched (old new : Block) : List Granule :=
  (if { old with sp := new.sp, csp := new.csp, accs := new.accs, writes := new.writes } = new then [] else [.block new.uid])
    ++ (Sparse.changed old.writes new.writes).map (Block.granuleOf new.uid)
    ++ (Sparse.changed old.sp new.sp).map (fun a => .spm new.uid (a / 4096))
    ++ (Sparse.changed old.csp new.csp).map (fun a => .csp new.uid (a / 4096))
    ++ (Sparse.changed old.accs new.accs).eraseDups.flatMap (fun n =>
      ((old.acc n).touched (new.acc n)).map (fun q => .acc new.uid (4 * n + q)))
    ++ new.beyond old.alloc

/-- Every granule of the cluster's shadowed state that a move from `s` to `t` has written. -/
def State.touched (s t : State) (cl : Nat) : List Granule :=
  let here := fun (d : Dirty) => inCluster cl d.core
  (t.clusterWaves cl).flatMap (fun w => match s.wave? w.uid with | some o => o.touched w | none => w.granules)
    ++ (t.residents cl).flatMap (fun b => match s.block? b.uid with | some o => o.touched b | none => b.granules)
    ++ (s.dirty.filter (fun d => here d && ! t.dirty.contains d) ++ t.dirty.filter (fun d => here d && ! s.dirty.contains d)).map
      Dirty.granule
    ++ (if (s.cluster cl).gck = (t.cluster cl).gck ∧ s.grids.map (fun g => (g.id, g.cbIn cl)) = t.grids.map (fun g => (g.id, g.cbIn cl))
        then [] else [.cluster])

/-- The granules `gs` have been written; those that hold nothing any more need no copy. -/
def Cluster.note (gs all : List Granule) (c : Cluster) : Cluster :=
  { c with dirtyOpen := ((gs ++ c.dirtyOpen).filter all.contains).eraseDups
           dirtyClosed := ((gs ++ c.dirtyClosed).filter all.contains).eraseDups }

/-- The cluster's shadowed state is in its arrays, where writes mark it dirty. -/
def State.shadowed (s : State) (cl : Nat) : Bool := (s.cluster cl).power && ! s.isStopped cl

/-- Mark dirty, for both images, what a move from `s` to `t` has written (R387). -/
def State.noteWrites (s t : State) : State :=
  ((t.blocks.map Block.cluster ++ t.clusters.map Prod.fst).eraseDups).foldl (fun r cl =>
    if s.shadowed cl && t.shadowed cl then r.onCluster cl (Cluster.note (s.touched t cl) (t.granules cl)) else r) t

/-- An instruction that waits for the backlog counts in SHADOW_STALL (R389). -/
def State.countStall (s : State) (cl : Nat) : State := s.onCluster cl (fun c => { c with stallCount := c.stallCount + 1 })

/-- What becomes of an instruction that leads from `s` to `t` in a cluster: it waits at issue where it would raise the backlog above
the limit (R389). -/
def State.underBacklog (s t : State) (cl : Nat) : State :=
  let t := s.noteWrites t
  if (s.cluster cl).backlog < (t.cluster cl).backlog ∧ Config.backlogLimit < (t.cluster cl).backlog then s.countStall cl else t

end Sys2Proof.Machine
end

