-- ==== Sys2Proof/Machine/Fetch.lean ====
section
/-! DEFINITION. Before an instruction acts: which wave may issue, the word at its counter, and what a word that is no instruction
raises (R28, R169, R170, R181, R389). -/

namespace Sys2Proof.Machine

def wordGuard (w : BitVec 96) : Fields := guardOf (w.getLsbD 83) ⟨bitsAt w 80 3, by unfold bitsAt; omega⟩

/-- The wave's own condition to issue: no STALL gap, no YIELD, no stop, no wait that an event ends (R38, R177, R212, R214, R309). -/
def Wave.mayIssue (w : Wave) : Bool :=
  w.stall == 0 && w.yielded.isNone && ! w.stopped && ! w.retired
    && (match w.wait with | some (.regroup _) => false | some (.deadline ..) => false | _ => true)

/-- The core that a block runs on can issue: its cluster has power, its partition stands, the slice is awake, and the core is not retired
(R357, R389, R393, R394, R400; log 58). -/
def State.coreRuns (s : State) (b : Block) (p : Part) (slice : Nat) : Bool :=
  let c := s.cluster b.cluster
  c.power && ! c.gated.contains slice && ! p.preempted && ! p.lost && s.coreUsable b.cluster b.core

/-- A wave may issue: it is not parked on a fault either (R374). -/
def State.mayIssue (s : State) (c : Issue) : Bool :=
  c.wave.mayIssue && ! s.parked (.wave c.wave.uid) && s.coreRuns c.block c.part c.wave.slice

/-- What the instruction path delivers for the head group: an instruction to run, or the state that a fault leaves. -/
inductive Fetched where
  | run (i : Instr)
  | done (s : State)
  deriving DecidableEq, Repr

/-- Raise a fault of the word at the group's counter, under the guard that the word holds. -/
def raiseWord (s : State) (c : Issue) (w : BitVec 96) (code detail : Nat) : State :=
  let c := (s.issue? (wordGuard w)).getD c
  s.raise c { code := code, detail := BitVec.ofNat 32 detail, addr := 0 } c.pc

/-- What the word at the group's counter is: the PRIV check, then the rest of R181. -/
def decodeAt (s : State) (c : Issue) (w : BitVec 96) : Fetched :=
  if privilegedWord w && ! c.wave.handler then .done (raiseWord s c w Cause.priv 0)
  else match decodeWord w with
    | .ok i => .run i
    | .error subcode => .done (raiseWord s c w Cause.illegal subcode)

/-- The pages that the fetch reads are translated (R358, R373). -/
def State.touchCode (s : State) (c : Issue) : State :=
  (s.touchPage c.part c.die (codeBase c + c.pc)).touchPage c.part c.die (codeBase c + c.pc + 11)

/-- Fetch and decode for the head group (R169, R181, R374, R397). -/
def fetch (s : State) (c : Issue) : Fetched :=
  match fetchBytes s c with
  | .ok bs => decodeAt (s.touchCode c) c (wordOfBytes bs)
  | .error .wait => .done s
  | .error (.stay s') => .done s'
  | .error (.trap t) => .done (s.raise c t c.pc)

/-- What the instruction path delivers when wave `u` is chosen to issue, and the state that its instruction runs in. A write-back error that
the wave is owed comes first (R397; log 60). -/
def prepare (s : State) (u : Nat) : Fetched × State :=
  let s := { s with issuing := u }
  match s.headIssue? with
  | none => (.done s, s)
  | some c =>
    if ! s.mayIssue c then (.done s, s)
    else if c.wave.backError then (.done ((s.own c (fun w => { w with backError := false })).raiseAtHead u), s)
    else (fetch s c, s.touchCode c)

end Sys2Proof.Machine
end

