-- ==== Sys2Proof/Machine/Flags.lean ====
section
/-! DEFINITION. The conditions that compare instructions put into predicates; the module has no flag register (R96, R201, R202). -/

namespace Sys2Proof.Machine

/-- The conditions of ICMP and ICMP64 by MINOR, on `n`-bit patterns (R179, R201). -/
def intCond (cond n a b : Nat) : Bool :=
  match cond with
  | 0 => a == b
  | 1 => a != b
  | 2 => decide (signed n a < signed n b)
  | 3 => decide (signed n a ≤ signed n b)
  | 4 => decide (signed n a > signed n b)
  | 5 => decide (signed n a ≥ signed n b)
  | 6 => decide (a < b)
  | 7 => decide (a ≤ b)
  | 8 => decide (a > b)
  | _ => decide (a ≥ b)

/-- How two floating-point values compare; a NaN makes them unordered (R202). -/
inductive Relation where
  | lt | eq | gt | uno
  deriving DecidableEq, Repr

/-- The relations eq, ne, lt, le, gt and ge of ordered values. -/
def orderedCond (cond : Nat) (r : Relation) : Bool :=
  match cond with
  | 0 => r == .eq
  | 1 => r == .lt || r == .gt
  | 2 => r == .lt
  | 3 => r == .lt || r == .eq
  | 4 => r == .gt
  | _ => r == .gt || r == .eq

/-- The conditions of FCMP by MINOR (R202). -/
def floatCond (cond : Nat) (r : Relation) : Bool :=
  if cond < 6 then r != .uno && orderedCond cond r
  else if cond = 6 then r != .uno
  else if cond = 7 then r == .uno
  else r == .uno || orderedCond (cond - 8) r

end Sys2Proof.Machine
end

