-- ==== Sys2Proof/Machine/Numbers.lean ====
section
/-! DEFINITION. Number formats: exact values, round-to-nearest-even, conversions, and the correctly rounded elementary functions
(R21, R96-R108, R216-R219). -/

namespace Sys2Proof.Machine

/-! ### Exact values -/

/-- An exact value: NaN, an infinity, or ± mant × 2^exp; a zero keeps its sign (R96). -/
inductive Num where
  | nan
  | inf (neg : Bool)
  | fin (neg : Bool) (mant : Nat) (exp : Int)
  deriving DecidableEq, Repr

/-- m × 2^e as an integer multiple of 2^base, exact when base ≤ e. -/
def scaleTo (base : Int) (m : Nat) (e : Int) : Nat := m * 2 ^ (e - base).toNat

def applySign (neg : Bool) (m : Nat) : Int := if neg then - (m : Int) else m

/-- An integer as an exact value. -/
def Num.ofInt (v : Int) : Num := .fin (decide (v < 0)) v.natAbs 0

def Num.negate : Num → Num
  | .nan => .nan
  | .inf n => .inf (! n)
  | .fin n m e => .fin (! n) m e

def Num.isZero : Num → Bool
  | .fin _ m _ => m == 0
  | _ => false

/-- Exact sum; an exact zero from operands of opposite sign is +0 (R96). -/
def Num.add : Num → Num → Num
  | .nan, _ => .nan
  | _, .nan => .nan
  | .inf a, .inf b => if a = b then .inf a else .nan
  | .inf a, _ => .inf a
  | _, .inf b => .inf b
  | .fin a m e, .fin b n f =>
    let base := min e f
    let v := applySign a (scaleTo base m e) + applySign b (scaleTo base n f)
    if v = 0 then .fin (a && b) 0 0 else .fin (decide (v < 0)) v.natAbs base

/-- Exact product. -/
def Num.mul : Num → Num → Num
  | .nan, _ => .nan
  | _, .nan => .nan
  | .inf a, .inf b => .inf (a != b)
  | .inf a, .fin b n _ => if n = 0 then .nan else .inf (a != b)
  | .fin a m _, .inf b => if m = 0 then .nan else .inf (a != b)
  | .fin a m e, .fin b n f => .fin (a != b) (m * n) (e + f)

/-- a × b + c with no rounding of the product (R216). -/
def Num.mulAdd (a b c : Num) : Num := (a.mul b).add c

/-- Multiply by a power of two. -/
def Num.scale (x : Num) (k : Int) : Num :=
  match x with
  | .fin n m e => .fin n m (e + k)
  | x => x

/-- How two values compare (R202). -/
def Num.relation : Num → Num → Relation
  | .nan, _ => .uno
  | _, .nan => .uno
  | .inf a, .inf b => if a = b then .eq else if a then .lt else .gt
  | .inf a, _ => if a then .lt else .gt
  | _, .inf b => if b then .gt else .lt
  | .fin a m e, .fin b n f =>
    let base := min e f
    let x := applySign a (scaleTo base m e)
    let y := applySign b (scaleTo base n f)
    if x < y then .lt else if x = y then .eq else .gt

/-! ### Formats -/

/-- What the top codes of a float format mean. -/
inductive Top where
  | ieee   -- infinities and NaNs
  | nanOnly   -- E4M3: one NaN code per sign
  | finite   -- E2M1
  deriving DecidableEq, Repr

/-- A float format: exponent and significand bits, bias, top codes (R99, R100). -/
structure FloatFmt where
  ebits : Nat
  mbits : Nat
  bias : Nat
  top : Top
  deriving DecidableEq, Repr

def fp32 : FloatFmt := { ebits := 8, mbits := 23, bias := 127, top := .ieee }
def fp16 : FloatFmt := { ebits := 5, mbits := 10, bias := 15, top := .ieee }
def bf16 : FloatFmt := { ebits := 8, mbits := 7, bias := 127, top := .ieee }
def e5m2 : FloatFmt := { ebits := 5, mbits := 2, bias := 15, top := .ieee }
def e4m3 : FloatFmt := { ebits := 4, mbits := 3, bias := 7, top := .nanOnly }
def e2m1 : FloatFmt := { ebits := 2, mbits := 1, bias := 1, top := .finite }

/-- Any format that a value converts from or into. -/
inductive Fmt where
  | float (f : FloatFmt)
  | int (bits : Nat) (signed : Bool)
  | dsw8
  | dsw4
  deriving DecidableEq, Repr

/-- Bits of a float format, sign included. -/
def FloatFmt.width (f : FloatFmt) : Nat := 1 + f.ebits + f.mbits

def Fmt.width : Fmt → Nat
  | .float f => f.width
  | .int b _ => b
  | .dsw8 => 8
  | .dsw4 => 4

/-- The code of the largest finite value, without sign. -/
def FloatFmt.maxCode (f : FloatFmt) : Nat :=
  match f.top with
  | .ieee => (2 ^ f.ebits - 1) * 2 ^ f.mbits - 1
  | .nanOnly => 2 ^ (f.ebits + f.mbits) - 2
  | .finite => 2 ^ (f.ebits + f.mbits) - 1

/-- The canonical NaN (R97): top significand bit for the IEEE formats, all ones for E4M3. -/
def FloatFmt.canonicalNan (f : FloatFmt) : Nat :=
  match f.top with
  | .ieee => (2 ^ f.ebits - 1) * 2 ^ f.mbits + 2 ^ (f.mbits - 1)
  | .nanOnly => 2 ^ (f.ebits + f.mbits) - 1
  | .finite => 0

/-- The value of an encoding (R99, R100); bits above the format are not read. -/
def FloatFmt.decode (f : FloatFmt) (w : Nat) : Num :=
  let neg := w.testBit (f.ebits + f.mbits)
  let code := w % 2 ^ (f.ebits + f.mbits)
  let e := code / 2 ^ f.mbits
  let m := code % 2 ^ f.mbits
  if f.top = .ieee ∧ e = 2 ^ f.ebits - 1 then (if m = 0 then .inf neg else .nan)
  else if f.top = .nanOnly ∧ code = 2 ^ (f.ebits + f.mbits) - 1 then .nan
  else if e = 0 then .fin neg m (1 - (f.bias : Int) - f.mbits)
  else .fin neg (2 ^ f.mbits + m) ((e : Int) - f.bias - f.mbits)

/-- Round m / 2^k to the nearest integer, ties to even. -/
def roundShift (m k : Nat) : Nat :=
  let q := m / 2 ^ k
  let r := m % 2 ^ k
  if 2 * r < 2 ^ k then q else if 2 * r = 2 ^ k then q + q % 2 else q + 1

/-- The nearest code without sign of a nonzero magnitude m × 2^e, as if codes had no upper bound (R21). Codes are consecutive
in magnitude, so a carry out of the significand steps into the next exponent. -/
def FloatFmt.nearest (f : FloatFmt) (m : Nat) (e : Int) : Nat :=
  let lo : Int := 1 - (f.bias : Int) - f.mbits
  let ulp : Int := max lo ((m.log2 : Int) + e - f.mbits)
  let n := if ulp ≤ e then m * 2 ^ (e - ulp).toNat else roundShift m (ulp - e).toNat
  n + (ulp - lo).toNat * 2 ^ f.mbits

/-- Round an exact value into a float format (R21, R96, R106). -/
def FloatFmt.encode (f : FloatFmt) (x : Num) : Nat :=
  let sign := fun (neg : Bool) (code : Nat) => neg.toNat * 2 ^ (f.ebits + f.mbits) + code
  match x with
  | .nan => f.canonicalNan
  | .inf neg => sign neg (if f.top = .ieee then f.maxCode + 1 else f.maxCode)
  | .fin neg m e =>
    if m = 0 then sign neg 0
    else
      let code := f.nearest m e
      sign neg (if code ≤ f.maxCode then code else if f.top = .ieee then f.maxCode + 1 else f.maxCode)

/-! ### Double-shift weights (R102-R104) -/

/-- A term of four bits in units of 2^-6. -/
def dswTerm (t : Nat) : Int :=
  let c := t % 8
  if c = 7 then 0 else applySign (decide (8 ≤ t % 16)) (2 ^ (6 - c))

/-- A DSW8 byte, and a DSW4 nibble, in units of 2^-6. -/
def dsw8Value (b : Nat) : Int := dswTerm (b / 16) + dswTerm b
def dsw4Value (b : Nat) : Int := dswTerm b

/-- Trailing zero bits of a nonzero multiple of 2^-6; zero has more than any (R98). -/
def trailing (v : Int) : Nat := if v = 0 then 64 else ((List.range 64).find? (fun i => v.natAbs.testBit i)).getD 0

/-- Candidate `a` is nearer to x than `b`, or prevails in the tie of R98; x = num / 2^k units. -/
def dswBetter (num : Int) (k : Nat) (a b : Int) : Bool :=
  let da := (a * (2 ^ k : Nat) - num).natAbs
  let db := (b * (2 ^ k : Nat) - num).natAbs
  if da ≠ db then decide (da < db)
  else if trailing a ≠ trailing b then decide (trailing b < trailing a) else decide (a.natAbs < b.natAbs)

/-- The encoding of the nearest value of a set: the first code of the best value (R98, R104). -/
def dswNearest (codes : Nat) (value : Nat → Int) (neg : Bool) (m : Nat) (e : Int) : Nat :=
  let e' := e + 6
  let num := applySign neg (if 0 ≤ e' then m * 2 ^ e'.toNat else m)
  let k := if 0 ≤ e' then 0 else (-e').toNat
  (List.range codes).foldl (fun best c => if dswBetter num k (value c) (value best) then c else best) 0

/-- Round into DSW8 or DSW4; zero is 0x77 or 0x7, infinities and values beyond saturate (R106). -/
def dswEncode (wide : Bool) (x : Num) : Nat :=
  let none_ := if wide then 0x77 else 0x7
  let value := if wide then dsw8Value else dsw4Value
  let codes := if wide then 256 else 16
  let r := match x with
    | .nan => none_
    | .inf neg => dswNearest codes value neg 4 0
    | .fin neg m e => dswNearest codes value neg m e
  if value r = 0 then none_ else r

/-! ### Conversions (R106) -/

/-- The exact value of an encoding. -/
def Fmt.decode (f : Fmt) (w : Nat) : Num :=
  match f with
  | .float g => g.decode w
  | .int b sgn => .ofInt (if sgn then signed b w else (w % 2 ^ b : Nat))
  | .dsw8 => (Num.ofInt (dsw8Value (w % 256))).scale (-6)
  | .dsw4 => (Num.ofInt (dsw4Value (w % 16))).scale (-6)

/-- Round to an integer, ties to even. -/
def roundInt (neg : Bool) (m : Nat) (e : Int) : Int :=
  applySign neg (if 0 ≤ e then m * 2 ^ e.toNat else roundShift m (-e).toNat)

/-- The bounds of an integer format. -/
def intMin (b : Nat) (sgn : Bool) : Int := if sgn then - (2 ^ (b - 1) : Nat) else 0
def intMax (b : Nat) (sgn : Bool) : Int := if sgn then (2 ^ (b - 1) : Nat) - 1 else (2 ^ b : Nat) - 1

/-- Saturated integer conversion, as `b` bits. -/
def intEncode (b : Nat) (sgn : Bool) (x : Num) : Nat :=
  let v : Int := match x with
    | .nan => 0
    | .inf neg => if neg then intMin b sgn else intMax b sgn
    | .fin neg m e => min (max (roundInt neg m e) (intMin b sgn)) (intMax b sgn)
  (v % (2 ^ b : Nat)).toNat

/-- A conversion into a format: its bits, in the format's width. -/
def Fmt.encode (f : Fmt) (x : Num) : Nat :=
  match f with
  | .float g => g.encode x
  | .int b sgn => intEncode b sgn x
  | .dsw8 => dswEncode true x
  | .dsw4 => dswEncode false x

/-- Formats without a NaN take a NaN as a poisoned value (R106). -/
def Fmt.hasNan : Fmt → Bool
  | .float f => f.top != .finite
  | _ => false

/-- Whether a conversion poisons. -/
def Fmt.poisons (f : Fmt) (x : Num) : Bool := x == .nan && ! f.hasNan

/-! ### Division and roots, correctly rounded -/

/-- A value strictly between n and n + 1 units, or exactly n: two more bits keep the rounding (the significand is long). -/
def sticky (neg exact : Bool) (n : Nat) (e : Int) : Num := .fin neg (2 * n + (! exact).toNat) (e - 1)

/-- The integer square root, bit by bit from bit `i` down. -/
def isqrtFrom (i n r : Nat) : Nat :=
  match i with
  | 0 => if (r + 1) * (r + 1) ≤ n then r + 1 else r
  | k + 1 => isqrtFrom k n (if (r + 2 ^ (k + 1)) * (r + 2 ^ (k + 1)) ≤ n then r + 2 ^ (k + 1) else r)

def isqrt (n : Nat) : Nat := isqrtFrom (n.log2 / 2) n 0

/-- 1 / x (R219). -/
def Num.recip : Num → Num
  | .nan => .nan
  | .inf neg => .fin neg 0 0
  | .fin neg m e =>
    if m = 0 then .inf neg
    else let k := m.log2 + 64
         sticky neg (2 ^ k % m = 0) (2 ^ k / m) (- (k : Int) - e)

/-- An even exponent below e, and the significand that goes with it. -/
def evenExp (m : Nat) (e : Int) : Nat × Int := if e % 2 = 0 then (m, e) else (2 * m, e - 1)

/-- √x (R219). -/
def Num.sqrt : Num → Num
  | .nan => .nan
  | .inf neg => if neg then .nan else .inf false
  | .fin neg m e =>
    if m = 0 then .fin neg 0 0
    else if neg then .nan
    else let (m, e) := evenExp m e
         let n := m * 2 ^ 128
         let r := isqrt n
         sticky false (r * r = n) r (e / 2 - 64)

/-- 1 / √x (R219). -/
def Num.rsqrt : Num → Num
  | .nan => .nan
  | .inf neg => if neg then .nan else .fin false 0 0
  | .fin neg m e =>
    if m = 0 then .inf neg
    else if neg then .nan
    else let (m, e) := evenExp m e
         let k := m.log2 + 64
         let r := isqrt (2 ^ (2 * k) / m)
         sticky false (r * r * m = 2 ^ (2 * k)) r (- (k : Int) - e / 2)

/-! ### Elementary functions by enclosure

Each function below encloses its exact value between two integers in units of 2^-p; the precision doubles until both ends round
alike (log 13). -/

/-- Bounds of a value in units of 2^-p. -/
structure Bound where
  lo : Int
  hi : Int
  deriving DecidableEq, Repr

def Num.ofScaled (v : Int) (p : Nat) : Num := .fin (decide (v < 0)) v.natAbs (- (p : Int))

/-- Round the enclosed value once both ends round alike. -/
def settleRound (f : FloatFmt) (enclose : Nat → Option Bound) (p fuel : Nat) : Nat :=
  let ends := (enclose p).map (fun b => (f.encode (.ofScaled b.lo p), f.encode (.ofScaled b.hi p)))
  match fuel, ends with
  | 0, some (a, _) => a
  | 0, none => 0
  | k + 1, some (a, b) => if a = b then a else settleRound f enclose (2 * p) k
  | k + 1, none => settleRound f enclose (2 * p) k

/-- Start at 128 bits; ten doublings pass every hard case. -/
def roundEnclosed (f : FloatFmt) (enclose : Nat → Option Bound) : Nat := settleRound f enclose 128 10

/-- The product over the bits of a fraction of 2^(2^-i): `root` encloses 2^(2^-i) for the next bit i (R219, 2^a). -/
def exp2Bits (p : Nat) (frac : Nat) : Nat → Nat × Nat → Nat × Nat → Nat × Nat
  | 0, _, acc => acc
  | k + 1, root, acc =>
    let root' := (isqrt (root.1 * 2 ^ p), isqrt (root.2 * 2 ^ p) + 1)
    let acc' := if frac.testBit k then (acc.1 * root'.1 / 2 ^ p, acc.2 * root'.2 / 2 ^ p + 1) else acc
    exp2Bits p frac k root' acc'

/-- 2^x for x = ± m × 2^e, as bounds of 2^(x - ⌊x⌋) and ⌊x⌋. -/
def exp2Parts (p : Nat) (neg : Bool) (m : Nat) (e : Int) : Int × Bound :=
  if 0 ≤ e then (applySign neg (m * 2 ^ e.toNat), { lo := 2 ^ p, hi := 2 ^ p })
  else
    let k := (-e).toNat
    let v := applySign neg m
    let n := v / (2 ^ k : Nat)
    let frac := (v % (2 ^ k : Nat)).toNat
    let r := exp2Bits p frac k (2 * 2 ^ p, 2 * 2 ^ p) (2 ^ p, 2 ^ p)
    (n, { lo := r.1, hi := r.2 })

/-- Settle 2^x: the bounds are scaled by 2^⌊x⌋ when they are rounded. -/
def exp2Settle (f : FloatFmt) (neg : Bool) (m : Nat) (e : Int) (p : Nat) : Nat → Nat
  | 0 => let r := exp2Parts p neg m e; f.encode ((Num.ofScaled r.2.lo p).scale r.1)
  | k + 1 =>
    let r := exp2Parts p neg m e
    let a := f.encode ((Num.ofScaled r.2.lo p).scale r.1)
    if a = f.encode ((Num.ofScaled r.2.hi p).scale r.1) then a else exp2Settle f neg m e (2 * p) k

/-- The magnitude is 2^10 or more: 2^x is beyond every format here. -/
def huge (m : Nat) (e : Int) : Bool := decide (10 ≤ (m.log2 : Int) + e)

/-- FEXP2 (R219). -/
def fexp2 (f : FloatFmt) : Num → Nat
  | .nan => f.canonicalNan
  | .inf neg => f.encode (if neg then .fin false 0 0 else .inf false)
  | .fin neg m e =>
    if m = 0 then f.encode (.fin false 1 0)
    else if huge m e then f.encode (if neg then .fin false 1 (-2000) else .fin false 1 2000)
    else exp2Settle f neg m e 128 10

/-- `k` bits of log₂ of a value in [1, 2), by repeated squaring of its enclosure; none when a bit is undecided. -/
def log2Bits (p : Nat) : Nat → Nat × Nat → Nat → Option Nat
  | 0, _, acc => some acc
  | k + 1, v, acc =>
    let s := (v.1 * v.1 / 2 ^ p, v.2 * v.2 / 2 ^ p + 1)
    if 2 * 2 ^ p ≤ s.1 then log2Bits p k (s.1 / 2, s.2 / 2 + 1) (2 * acc + 1)
    else if s.2 ≤ 2 * 2 ^ p then log2Bits p k s (2 * acc)
    else none

/-- Bounds of log₂ (m × 2^e) in units of 2^-k, with k = p / 2 - 8. -/
def log2Enclose (m : Nat) (e : Int) (p : Nat) : Option Bound :=
  let l := m.log2
  let k := p / 2 - 8
  let x := m * 2 ^ p
  let v := (x / 2 ^ l, x / 2 ^ l + 1)
  (log2Bits p k v 0).map (fun b =>
    let base := ((l : Int) + e) * (2 ^ k : Nat)
    { lo := (base + b) * (2 ^ (p - k) : Nat), hi := (base + b + 1) * (2 ^ (p - k) : Nat) })

/-- FLOG2 (R219); a power of two is exact. -/
def flog2 (f : FloatFmt) : Num → Nat
  | .nan => f.canonicalNan
  | .inf neg => if neg then f.canonicalNan else f.encode (.inf false)
  | .fin neg m e =>
    if m = 0 then f.encode (.inf true)
    else if neg then f.canonicalNan
    else if m = 2 ^ m.log2 then f.encode (.ofInt ((m.log2 : Int) + e))
    else roundEnclosed f (log2Enclose m e)

/-- Sum of the arctangent series of 1/q in units of 2^-p, term by term with alternating sign; each floor is off by at most a
unit. -/
def arctanSum (q2 : Nat) : Nat → Nat → Nat → Bool → Int → Int
  | 0, _, _, _, acc => acc
  | k + 1, t, n, neg, acc => arctanSum q2 k (t / q2) (n + 2) (! neg) (acc + applySign neg (t / n))

/-- π in units of 2^-p (Machin), with a bound on the error of the floors and of the omitted tail. -/
def piBound (p : Nat) : Bound :=
  let a := arctanSum 25 p (2 ^ p / 5) 1 false 0
  let b := arctanSum (239 * 239) p (2 ^ p / 239) 1 false 0
  let v := 16 * a - 4 * b
  { lo := v - 60 * p - 60, hi := v + 60 * p + 60 }

/-- The series t - t r²/((i+1)(i+2)) + … in units of 2^-p; it serves the sine from t = r, i = 1 and the cosine from t = 1,
i = 0. -/
def trigSum (p : Nat) (r2 : Nat) : Nat → Nat → Nat → Bool → Int → Int
  | 0, _, _, _, acc => acc
  | k + 1, t, i, neg, acc =>
    if t = 0 then acc
    else trigSum p r2 k (t * r2 / 2 ^ p / ((i + 1) * (i + 2))) (i + 2) (! neg) (acc + applySign neg t)

/-- sin and cos of a magnitude r ≤ 1 in units of 2^-p, each within 4 p + 8 units. -/
def sinSmall (p r : Nat) : Int := trigSum p (r * r / 2 ^ p) p r 1 false 0
def cosSmall (p r : Nat) : Int := trigSum p (r * r / 2 ^ p) p (2 ^ p) 0 false 0

def slack (p : Nat) : Int := 4 * (p : Int) + 8

/-- Bounds of sin over [lo, hi] within [-1, 1], where it rises. -/
def sinOver (p : Nat) (b : Bound) : Bound :=
  let at_ := fun (v : Int) => if 0 ≤ v then sinSmall p v.natAbs else - sinSmall p v.natAbs
  { lo := at_ b.lo - slack p, hi := at_ b.hi + slack p }

/-- Bounds of cos over [lo, hi] within [-1, 1], where it falls with the magnitude. -/
def cosOver (p : Nat) (b : Bound) : Bound :=
  let big := max b.lo.natAbs b.hi.natAbs
  let small := if b.lo ≤ 0 ∧ 0 ≤ b.hi then 0 else min b.lo.natAbs b.hi.natAbs
  { lo := cosSmall p big - slack p, hi := min (2 ^ p : Nat) (cosSmall p small + slack p) }

/-- sin (x + quarter × π/2) of x = ± m × 2^e: reduce by the nearest multiple of π/2, then use the quadrant. -/
def trigEnclose (quarter : Int) (neg : Bool) (m : Nat) (e : Int) (p : Nat) : Option Bound :=
  let big := ((m.log2 : Int) + e).toNat + 8
  let w := p + big
  let x := applySign neg (if 0 ≤ e + w then m * 2 ^ (e + w).toNat else m / 2 ^ (-(e + w)).toNat)
  let off : Int := if 0 ≤ e + w then 0 else 1
  let pi := piBound w
  let n := (4 * x + pi.lo) / (2 * pi.lo)
  let r1 := 2 * x - n * pi.lo
  let r2 := 2 * x - n * pi.hi
  let b : Bound := { lo := (min r1 r2 / 2 - 1 - off) / (2 ^ big : Nat) - 1, hi := (max r1 r2 / 2 + 1 + off) / (2 ^ big : Nat) + 1 }
  if b.lo < - (2 ^ p : Nat) ∨ (2 ^ p : Nat) < b.hi then none
  else some (match (n + quarter) % 4 with
    | 0 => sinOver p b
    | 1 => cosOver p b
    | 2 => let s := sinOver p b; { lo := - s.hi, hi := - s.lo }
    | _ => let s := cosOver p b; { lo := - s.hi, hi := - s.lo })

/-- FSIN (R219). -/
def fsin (f : FloatFmt) : Num → Nat
  | .nan => f.canonicalNan
  | .inf _ => f.canonicalNan
  | .fin neg m e => if m = 0 then f.encode (.fin neg 0 0) else roundEnclosed f (trigEnclose 0 neg m e)

/-- FCOS (R219). -/
def fcos (f : FloatFmt) : Num → Nat
  | .nan => f.canonicalNan
  | .inf _ => f.canonicalNan
  | .fin neg m e => if m = 0 then f.encode (.fin false 1 0) else roundEnclosed f (trigEnclose 1 neg m e)

/-! ### Classes (R206) -/

/-- The class bit of an encoding. -/
def FloatFmt.classBit (f : FloatFmt) (w : Nat) : Nat :=
  let neg := w.testBit (f.ebits + f.mbits)
  match f.decode w with
  | .nan => if f.top = .nanOnly || w.testBit (f.mbits - 1) then 9 else 8
  | .inf n => if n then 0 else 7
  | .fin _ m _ =>
    if m = 0 then (if neg then 3 else 4)
    else if m < 2 ^ f.mbits then (if neg then 2 else 5)
    else (if neg then 1 else 6)

end Sys2Proof.Machine
end

