-- ==== Sys2Proof/Machine/Float.lean ====
section
/-! DEFINITION. Floating point: arithmetic, packed arithmetic, elementary functions, compare and class (R202, R206, R216-R219). -/

namespace Sys2Proof.Machine

/-- The float format of an instruction's type (R185); the types that a form admits. -/
def floatOf (op : Op) (x : Fields) : FloatFmt :=
  match effectiveTy op x with
  | .f16 => fp16
  | .bf16 => bf16
  | .e4m3 => e4m3
  | .e5m2 => e5m2
  | _ => fp32

/-- One exact result, rounded once (R216). -/
def rounded (f : FloatFmt) (x : Num) : Result := plain (f.encode x)

def execFadd (x : Fields) (s : State) : Host.Outcome State Fault Refusal :=
  let f := floatOf .fadd x
  alu s x shape2 (fun v => rounded f ((f.decode v.a).add (f.decode v.b)))

def execFsub (x : Fields) (s : State) : Host.Outcome State Fault Refusal :=
  let f := floatOf .fsub x
  alu s x shape2 (fun v => rounded f ((f.decode v.a).add (f.decode v.b).negate))

def execFmul (x : Fields) (s : State) : Host.Outcome State Fault Refusal :=
  let f := floatOf .fmul x
  alu s x shape2 (fun v => rounded f ((f.decode v.a).mul (f.decode v.b)))

def execFfma (x : Fields) (s : State) : Host.Outcome State Fault Refusal :=
  let f := floatOf .ffma x
  alu s x shape3 (fun v => rounded f ((f.decode v.a).mulAdd (f.decode v.b) (f.decode v.c)))

/-- The lesser (or greater) operand, unrounded; −0 is below +0 and a number prevails over a NaN (R217). -/
def floatPick (f : FloatFmt) (greater : Bool) (a b : Nat) : Nat :=
  let a := a % 2 ^ f.width
  let b := b % 2 ^ f.width
  let x := f.decode a
  let y := f.decode b
  if x = .nan then (if y = .nan then f.canonicalNan else b)
  else if y = .nan then a
  else match x.relation y with
    | .lt => if greater then b else a
    | .gt => if greater then a else b
    | _ => if (a.testBit (f.width - 1)) != greater then a else b

def execFmnxMin (x : Fields) (s : State) : Host.Outcome State Fault Refusal :=
  let f := floatOf .fmnxMin x
  alu s x shape2 (fun v => plain (floatPick f false v.a v.b))

def execFmnxMax (x : Fields) (s : State) : Host.Outcome State Fault Refusal :=
  let f := floatOf .fmnxMax x
  alu s x shape2 (fun v => plain (floatPick f true v.a v.b))

/-! ### Packed arithmetic (R218) -/

/-- Element `j` of a register of two. -/
def half (v j : Nat) : Nat := v / 2 ^ (16 * j) % 2 ^ 16

/-- The element of B that meets A's element `j` under an arrangement. -/
def arrangement (arr j : Nat) : Nat :=
  match arr with
  | 0 => j
  | 1 => 1 - j
  | 2 => 0
  | _ => 1

/-- The arrangement that OPT bits 29:28 carry. -/
def arrOf (x : Fields) : Nat := x.opt.toNat % 4

/-- Both elements, computed apart. -/
def packed (f : FloatFmt) (arr : Nat) (g : Num → Num → Num → Num) (v : Args) : Result :=
  let e := fun j => f.encode (g (f.decode (half v.a j)) (f.decode (half v.b (arrangement arr j))) (f.decode (half v.c j)))
  plain (e 0 + e 1 * 2 ^ 16)

def execPkadd (x : Fields) (s : State) : Host.Outcome State Fault Refusal :=
  alu s x shape2 (packed (floatOf .pkadd x) (arrOf x) (fun a b _ => a.add b))

def execPkmul (x : Fields) (s : State) : Host.Outcome State Fault Refusal :=
  alu s x shape2 (packed (floatOf .pkmul x) (arrOf x) (fun a b _ => a.mul b))

def execPkfma (x : Fields) (s : State) : Host.Outcome State Fault Refusal :=
  alu s x shape3 (packed (floatOf .pkfma x) (arrOf x) (fun a b c => a.mulAdd b c))

/-! ### Elementary functions (R219) -/

def execFrcp (x : Fields) (s : State) : Host.Outcome State Fault Refusal :=
  let f := floatOf .frcp x
  alu s x shape1 (fun v => rounded f (f.decode v.a).recip)

def execFrsq (x : Fields) (s : State) : Host.Outcome State Fault Refusal :=
  let f := floatOf .frsq x
  alu s x shape1 (fun v => rounded f (f.decode v.a).rsqrt)

def execFsqrt (x : Fields) (s : State) : Host.Outcome State Fault Refusal :=
  let f := floatOf .fsqrt x
  alu s x shape1 (fun v => rounded f (f.decode v.a).sqrt)

def execFexp2 (x : Fields) (s : State) : Host.Outcome State Fault Refusal :=
  let f := floatOf .fexp2 x
  alu s x shape1 (fun v => plain (fexp2 f (f.decode v.a)))

def execFlog2 (x : Fields) (s : State) : Host.Outcome State Fault Refusal :=
  let f := floatOf .flog2 x
  alu s x shape1 (fun v => plain (flog2 f (f.decode v.a)))

def execFsin (x : Fields) (s : State) : Host.Outcome State Fault Refusal :=
  let f := floatOf .fsin x
  alu s x shape1 (fun v => plain (fsin f (f.decode v.a)))

def execFcos (x : Fields) (s : State) : Host.Outcome State Fault Refusal :=
  let f := floatOf .fcos x
  alu s x shape1 (fun v => plain (fcos f (f.decode v.a)))

/-! ### Compare and class (R202, R206) -/

def execFcmp (cond : Fin 14) (x : Fields) (s : State) : Host.Outcome State Fault Refusal :=
  let f := floatOf .fcmp x
  alu s x shape2 (fun v => plain (floatCond cond ((f.decode v.a).relation (f.decode v.b))).toNat)

def execFclass (x : Fields) (s : State) : Host.Outcome State Fault Refusal :=
  let f := floatOf .fclass x
  alu s x shape1 (fun v => plain (2 ^ f.classBit v.a))

end Sys2Proof.Machine
end

