-- ==== Sys2Proof/Machine/Convert.lean ====
section
/-! DEFINITION. Conversions: CVT between types, CVTF between packed slot formats, and the block forms QBLK and DQBLK (R220-R223). -/

namespace Sys2Proof.Machine

/-- The format of a type code (R175). -/
def fmtOf : Ty → Fmt
  | .s8 => .int 8 true
  | .s16 => .int 16 true
  | .s32 => .int 32 true
  | .s64 => .int 64 true
  | .n8 => .int 8 false
  | .n16 => .int 16 false
  | .n32 => .int 32 false
  | .n64 => .int 64 false
  | .f16 => .float fp16
  | .bf16 => .float bf16
  | .e4m3 => .float e4m3
  | .e5m2 => .float e5m2
  | .e2m1 => .float e2m1
  | .dsw8 => .dsw8
  | .dsw4 => .dsw4
  | .f32 | .dflt | .a128 => .float fp32

/-- A converted value as it stands in a register (R215): the narrow signed integers are sign-extended. -/
def placeResult (t : Ty) (v : Nat) : Nat :=
  match t with
  | .s8 => wrap32Signed 8 v
  | .s16 => wrap32Signed 16 v
  | _ => v
where
  wrap32Signed (n v : Nat) : Nat := (signed n v % (2 ^ 32 : Nat)).toNat

/-- A conversion into a format (R106). -/
def converted (f : Fmt) (x : Num) : Result := { val := f.encode x, pz := f.poisons x }

def execCvt (x : Fields) (s : State) : Host.Outcome State Fault Refusal :=
  let dt := effectiveTy .cvt x
  let st := (cvtSource x).getD .f32
  alu s x { d := dt.regs, a := st.regs, b := 0, c := 0, old := false } (fun v =>
    let r := converted (fmtOf dt) ((fmtOf st).decode v.a)
    { r with val := placeResult dt r.val })

/-! ### Format slots (R85) -/

def slotElem (d : Word) : Nat := d.toNat % 2 ^ 8
def slotScale (d : Word) : Nat := d.toNat / 2 ^ 8 % 16
def slotBlk (d : Word) : Nat := d.toNat / 2 ^ 12 % 16

/-- The element format of an ELEM code. -/
def elemFmt (code : Nat) : Option Fmt :=
  match code with
  | 0x01 => some (.float fp32)
  | 0x02 => some (.float bf16)
  | 0x03 => some (.float fp16)
  | 0x04 => some (.float e4m3)
  | 0x05 => some (.float e5m2)
  | 0x06 => some (.float e2m1)
  | 0x07 => some (.int 8 true)
  | 0x08 => some (.int 4 true)
  | 0x0A => some .dsw8
  | 0x0B => some .dsw4
  | 0x0D => some (.int 32 true)
  | _ => none

/-- The slot that an operand names, and its descriptor (R85). -/
def slotOf (o : Operand) : Nat := match o with | .f n => n.val | _ => 0
def slotWord (c : Issue) (o : Operand) : Word := c.grid.formats.getD (slotOf o) 0
def slotFmt (c : Issue) (o : Operand) : Fmt := (elemFmt (slotElem (slotWord c o))).getD (.float fp32)

/-- A slot that is unusable in a packed conversion: it reads 0 or carries scales (R221). -/
def slotUnusable (c : Issue) (o : Operand) : Bool := slotWord c o == 0 || slotScale (slotWord c o) == 1

/-! ### CVTF (R221) -/

/-- Parts available between a source width and a destination width; 0 when they are equal. -/
def partsOf (ws wd : Nat) : Nat := if ws = wd then 0 else max ws wd / min ws wd

/-- The FORMAT checks, Fs before Fd before the part. -/
def cvtfCheck (c : Issue) (x : Fields) (p : Nat) : Except Stop Unit := do
  stopIf (slotUnusable c x.b) (fault Cause.format (slotOf x.b))
  stopIf (slotUnusable c x.c) (fault Cause.format (slotOf x.c))
  let ws := (slotFmt c x.b).width
  let wd := (slotFmt c x.c).width
  stopIf (if ws = wd then p != 0 else decide (partsOf ws wd ≤ p)) (fault Cause.format (slotOf x.c))

/-- Put `w` bits at a place of a 32-bit value. -/
def putBits (old w at_ v : Nat) : Nat := old - old / 2 ^ at_ % 2 ^ w * 2 ^ at_ + v % 2 ^ w * 2 ^ at_

/-- Element `di` of D becomes the conversion of element `si` of A, for each of the elements. -/
def cvtfLane (src dst : Fmt) (p a old : Nat) : Result :=
  let ws := src.width
  let wd := dst.width
  let n := 32 / max ws wd
  (List.range n).foldl (fun (r : Result) i =>
    let si := if ws < wd then i + p * n else i
    let di := if wd < ws then i + p * n else i
    let e := converted dst (src.decode (a / 2 ^ (si * ws) % 2 ^ ws))
    { val := putBits r.val wd (di * wd) e.val, pz := r.pz || e.pz }) { val := old, pz := false }

def execCvtf (x : Fields) (s : State) : Host.Outcome State Fault Refusal :=
  issue s x (fun c => do
    let p := x.opt.toNat % 8
    if c.active.isEmpty then .ok s
    else
      cvtfCheck c x p
      let src := slotFmt c x.b
      let dst := slotFmt c x.c
      let h : Shape := { d := 1, a := 1, b := 0, c := 0, old := decide (dst.width < src.width) }
      checkOperands s c (h.srcs x) x.d 1
      .ok (s.own c (fun w => w.putResult x.d 1 c.active (laneResult s c x h (fun v => cvtfLane src dst p v.a v.old)))))

/-! ### QBLK and DQBLK (R222, R223) -/

/-- The largest power of two of an element format's largest value. -/
def elemEmax (f : Fmt) : Int :=
  match f with
  | .float g => if g = e4m3 then 8 else if g = e5m2 then 15 else 2
  | .int 8 _ => 6
  | .int _ _ => 2
  | .dsw8 => 1
  | .dsw4 => 0

/-- A slot that QBLK and DQBLK can use: scaled, elements of 8 bits or fewer. -/
def blockSlotOk (c : Issue) (o : Operand) : Bool :=
  slotScale (slotWord c o) == 1 && decide ((slotFmt c o).width ≤ 8)

/-- An operand that must be an even pair base when BLK = 6. -/
def oddBase (o : Operand) : Bool :=
  match o with
  | .v n => n.val % 2 == 1
  | .s n => n.val % 2 == 1
  | _ => false

/-- ⌊log₂⌋ of a magnitude. -/
def numLog2 : Num → Int
  | .fin _ m e => (m.log2 : Int) + e
  | _ => 0

/-- The larger magnitude. -/
def absMax (a b : Num) : Num :=
  let abs := fun (x : Num) => match x with | .fin _ m e => Num.fin false m e | x => x
  if (abs a).relation (abs b) = .lt then abs b else abs a

/-- The shared scale code of a block (R222); none when a value is NaN or infinite. -/
def blockScale (f : Fmt) (vals : List Num) : Option Nat :=
  if vals.any (fun v => match v with | .fin .. => false | _ => true) then none
  else
    let amax := vals.foldl absMax (.fin false 0 0)
    if amax.isZero then some 127
    else some (min (max (numLog2 amax - elemEmax f + 127) 0) 254).toNat

/-- One quantized element under a scale, as R106 rounds it (log 63); without a scale the canonical zero. -/
def quantize (f : Fmt) (scale : Option Nat) (x : Num) : Nat :=
  match scale with
  | none => f.encode (.fin false 0 0)
  | some code => f.encode (x.scale (127 - (code : Int)))

def execQblk (x : Fields) (s : State) : Host.Outcome State Fault Refusal :=
  issue s x (fun c => do
    if c.active.isEmpty then .ok s
    else
      stopIf (! blockSlotOk c x.b) (fault Cause.format (slotOf x.b))
      let b := slotBlk (slotWord c x.b)
      stopIf (b == 6 && oddBase x.a) (fault Cause.format (slotOf x.b))
      let n := if b = 6 then 2 else 1
      checkOperands s c [srcA x n] x.d 1
      let src := floatOf .qblk x
      let dst := slotFmt c x.b
      let elems := fun l => (List.range n).map (fun j => src.decode ((readOp s c x.a n l).val / 2 ^ (32 * j) % 2 ^ 32))
      let peers := fun l => c.active.filter (fun k => if b = 4 then k / 16 == l / 16 else true)
      .ok (s.own c (fun w => w.putResult x.d 1 c.active (fun l =>
        let scale := blockScale dst ((peers l).flatMap elems)
        { val := scale.getD 0xFF * 2 ^ 24 + ((elems l).mapIdx (fun j e => quantize dst scale e * 2 ^ (8 * j))).sum
          pz := (peers l).any (fun k => lanePz s c x [srcA x n] k) }))))

/-- One element of DQBLK: the scale's value times the element's, rounded (R108, R223). -/
def dequantize (src : Fmt) (dst : FloatFmt) (a j : Nat) : Nat :=
  let scale : Nat := a / 2 ^ 24 % 256
  if scale = 0xFF then dst.canonicalNan
  else dst.encode ((src.decode (a / 2 ^ (8 * j) % 2 ^ src.width)).scale ((scale : Int) - 127))

def execDqblk (x : Fields) (s : State) : Host.Outcome State Fault Refusal :=
  issue s x (fun c => do
    if c.active.isEmpty then .ok s
    else
      stopIf (! blockSlotOk c x.b) (fault Cause.format (slotOf x.b))
      let b := slotBlk (slotWord c x.b)
      stopIf (b == 6 && oddBase x.d) (fault Cause.format (slotOf x.b))
      let n := if b = 6 then 2 else 1
      checkOperands s c [srcA x 1] x.d n
      let src := slotFmt c x.b
      let dst := floatOf .dqblk x
      .ok (s.own c (fun w => w.putResult x.d n c.active (fun l =>
        let r := readOp s c x.a 1 l
        { val := ((List.range n).map (fun j => dequantize src dst r.val j * 2 ^ (32 * j))).sum
          pz := r.pz || guardPoisoned c.wave x l }))))

end Sys2Proof.Machine
end

