-- ==== Sys2Proof/Machine/Records.lean ====
section
/-! DEFINITION. Layout records of tensor copies: their fields, their faults and the global byte behind each tile byte (R275-R277). -/

namespace Sys2Proof.Machine

/-! ### Layout records (R276, R277) -/

/-- A word of the record. -/
def recWord (r : List Word) (i : Nat) : Nat := (r.getD i 0).toNat

def recBase (r : List Word) : Nat := recWord r 0 + 2 ^ 32 * recWord r 1
def recStride (r : List Word) : Nat := recWord r 4
def recRows (r : List Word) : Nat := recWord r 6 / 2 ^ 16
def recCols (r : List Word) : Nat := recWord r 6 % 2 ^ 16
def recDoff (r : List Word) : Nat := recWord r 7
/-- The element format, and its width in bits. -/
def recFmt (r : List Word) : Option Fmt := elemFmt (recWord r 5 % 2 ^ 8)
def recBits (r : List Word) : Nat := ((recFmt r).map Fmt.width).getD 8
/-- Bytes of an element, 1 for four bits. -/
def recElem (r : List Word) : Nat := max 1 (recBits r / 8)
/-- Bytes of a tile row and of the tile; its chunks. -/
def recRowBytes (r : List Word) : Nat := recCols r * recBits r / 8
def recTotal (r : List Word) : Nat := recRows r * recRowBytes r
def recChunks (r : List Word) : Nat := ceilDiv (recTotal r) 512
/-- Bytes of a row that lie inside the tensor, and whether the last of them holds one nibble only. -/
def recInside (r : List Word) : Nat := ceilDiv (min (recWord r 2) (recCols r) * recBits r) 8
def recHalf (r : List Word) : Bool := recBits r == 4 && min (recWord r 2) (recCols r) % 2 == 1

/-- The place of the first register that offends (R276). -/
def recFault (r : List Word) : Option Nat :=
  if recBase r % recElem r ≠ 0 then some 0
  else if recStride r % recElem r ≠ 0 then some 4
  else if recWord r 5 / 2 ^ 8 ≠ 0 ∨ recFmt r = none then some 5
  else if recRows r = 0 ∨ recCols r = 0 ∨ recCols r * recBits r % 32 ≠ 0 ∨ 32768 < recTotal r then some 6
  else none

/-- Bytes of the global span (R277). -/
def recSpan (r : List Word) : Nat :=
  let rows := min (recWord r 3) (recRows r)
  if rows = 0 ∨ recInside r = 0 then 0 else (rows - 1) * recStride r + recInside r

/-- The global byte that tile byte `t` stands for; none outside the tensor. -/
def tileSource (r : List Word) (t : Nat) : Option Nat :=
  let row := t / recRowBytes r
  let i := t % recRowBytes r
  if row < recWord r 3 ∧ i < recInside r then some (recBase r + row * recStride r + i) else none

/-- Tile byte `t` holds one nibble that lies inside the tensor. -/
def tileHalf (r : List Word) (t : Nat) : Bool := recHalf r && t % recRowBytes r + 1 == recInside r

end Sys2Proof.Machine
end

