-- ==== Sys2Proof/Machine/Claims.lean ====
section
/-! DEFINITION. ACQ, FREE and CLMQ, and the two events of the grant checker (R59-R68, R295-R297). -/

namespace Sys2Proof.Machine

/-- The number of units requested: A as an unsigned 32-bit value (R295). -/
def unitsOf (s : State) (c : Issue) (x : Fields) : Nat := uniformVal s c x.a 1

/-- Submit a request to the checker's input queue; the wave stays at its ACQ until the checker answers (R62, R295). -/
def submit (s : State) (c : Issue) (x : Fields) (kind : Nat) (waits : Bool) : State :=
  let r : GrantRequest := { wave := c.wave.uid, kind := kind, q := unitsOf s c x, dst := if waits then .zero else x.d,
                            waits := waits, pz := c.guardPz x, entry := 0x3F, passed := 0 }
  (s.onGck c.block.cluster (fun g => { g with queue := g.queue ++ [r] })).own c (fun w => { w with wait := some .grant })

/-- Deliver a handle and step past the ACQ. -/
def takeHandle (s : State) (c : Issue) (x : Fields) (h : Word) (full : Bool) : State :=
  s.own c (fun w => w.writeHandle x.d h full (c.guardPz x))

/-- ACQ and ACQ.w (R295). -/
def acquire (waits : Bool) (kind : Nat) (x : Fields) (s : State) : Host.Outcome State Fault Refusal :=
  issue s x (fun c => do
    if c.active.isEmpty then .ok s
    else
      checkOperands s c [srcA x 1] .zero 1
      checkPoison s c [srcA x 1]
      match c.wave.wait with
      | some (.granted h) => .ok (takeHandle s c x h true)
      | some (.deferred h) => .ok (takeHandle s c x h (x.d == .zero))
      | some .exceeded => .error (fault Cause.claimExceeded (unitsOf s c x))
      | some .grant => .error .wait
      | some .fifoFull => .error .wait
      | _ =>
        stopIf (s.deferredOf c.block.cluster c.wave.uid).isSome .wait
        stopIf (destBusy c x.d 1) .wait
        stopIf (decide (16 ≤ (s.cluster c.block.cluster).gck.queue.length)) .wait
        .error (.stay (submit s c x kind waits)))

def execAcq (kind : Fin 6) (x : Fields) (s : State) : Host.Outcome State Fault Refusal := acquire false kind x s
def execAcqW (kind : Fin 6) (x : Fields) (s : State) : Host.Outcome State Fault Refusal := acquire true kind x s

/-- Every copy in flight, those that stand in the image of a stopped cluster among them (R389, R394). -/
def State.allCopies (s : State) : List Copy :=
  s.copies ++ s.clusters.flatMap (fun e => (e.2.imageA.toList ++ e.2.imageB.toList).flatMap (fun i => if i.current then i.copies else []))

/-- A copy or query is pending on a tag of a block (R93, R279, R280, R307). -/
def Copy.pendsOn (block tag : Nat) (k : Copy) : Bool :=
  k.kind != .packet && k.kind != .wsload && (k.block == block && k.tag == tag
    || k.kind == .multi && k.rtag == tag && k.receivers.any (fun r => r.block == block && ! r.left.isEmpty))

/-- Some copy or query is pending on a tag of a block (R49, R93). -/
def State.tagPending (s : State) (block tag : Nat) : Bool := s.allCopies.any (Copy.pendsOn block tag)

/-- A unit that FREE would return is still in use (R68). -/
def freeBusy (s : State) (c : Issue) (kind q : Nat) : Bool :=
  let top := allocOf c.wave c.block kind
  let units := (List.range q).map (fun i => top - q + i)
  match kind with
  | 0 => units.any (fun u => (List.range 8).any (fun i =>
      c.wave.isLocked (8 * u + i) || c.wave.liveLanes.any (fun l => ! (c.wave.readV (8 * u + i) l).full)))
  | 3 => units.any (fun u => (c.block.acc u).busy)
  | 4 => units.any (fun u => (c.block.ctx u).op.isSome)
  | 5 => units.any (fun u => s.tagPending c.block.uid u)
  | _ => false

/-- FREE: the return is applied at once, whatever the checker does (R62, R65, R296). -/
def execFree (kind : Fin 6) (x : Fields) (s : State) : Host.Outcome State Fault Refusal :=
  issue s x (fun c => do
    if c.active.isEmpty then .ok s
    else
      checkOperands s c [srcA x 1] .zero 1
      checkPoison s c [srcA x 1]
      let q := unitsOf s c x
      stopIf (decide (allocOf c.wave c.block kind < q)) (fault Cause.freeUnderflow q)
      stopIf (freeBusy s c kind q) .wait
      .ok (if q = 0 then s else s.shrink c.wave c.block kind q))

/-- What is available of a kind at the block's place and under the limit (R297). -/
def availableOf (s : State) (c : Issue) (kind : Nat) : Nat :=
  let a := s.available c.block.cluster
  min (a.getD (placeIndex kind c.block.core c.wave.slice) 0) (a.getD (limitIndex kind) 0)

/-- Claim, allocation, need and what is available now, in the four registers of D (R297). -/
def execClmq (kind : Fin 6) (x : Fields) (s : State) : Host.Outcome State Fault Refusal :=
  issue s x (fun c => do
    checkOperands s c [] x.d 4
    let claim := claimOf c.wave c.block kind
    let alloc := allocOf c.wave c.block kind
    let v := claim + 2 ^ 32 * alloc + 2 ^ 64 * (claim - alloc) + 2 ^ 96 * availableOf s c kind
    .ok (s.own c (fun w => w.putResult x.d 4 c.active (fun _ => { val := v, pz := c.guardPz x }))))

/-- The checker answers the oldest request in its input queue (R59, R64). -/
def execGckRequestTest (cl : Nat) (s : State) : Host.Outcome State Fault Refusal := .next (s.testRequest cl)

/-- The scan of the deferred FIFO that a return has started (R65). -/
def execGckScan (cl : Nat) (s : State) : Host.Outcome State Fault Refusal :=
  if (s.cluster cl).gck.scan then
    let s := s.onGck cl Gck.endScan
    .next ((s.scanFifo cl [] (s.cluster cl).gck.fifo).retryFull cl)
  else .next s

end Sys2Proof.Machine
end

