-- ==== Sys2Proof/Machine/Control.lean ====
section
/-! DEFINITION. Control: branches, calls, returns, EXIT, YIELD, TRAP and BPT (R35-R37, R207-R214). -/

namespace Sys2Proof.Machine

/-! ### Targets -/

/-- A target that R170 forbids: no multiple of 12, before the code or beyond it. -/
def badTarget (c : Issue) (t : Int) : Bool := t % 12 != 0 || decide (t < 0) || decide ((c.codeSize : Int) ≤ t)

/-- BAD_TARGET for the lowest lane whose target is bad (R170, R207), with the low word of the target (log 55). -/
def checkTargets (c : Issue) (ts : List (Nat × Int)) : Except Stop Unit :=
  match ts.find? (fun t => badTarget c t.2) with
  | some t => .error (.trap { code := Cause.badTarget, detail := BitVec.ofInt 32 t.2, addr := 0 })
  | none => .ok ()

/-- The target of lane `l`: the instruction's offset, a displacement and, for the indexed forms, a register (R208, R209). -/
def target (s : State) (c : Issue) (disp : Operand) (reg : Option Operand) (l : Nat) : Int :=
  let d := signed 32 (readOp s c disp 1 l).val
  let a := match reg with | some o => signed 32 (readOp s c o 1 l).val | none => 0
  (c.pc : Int) + d + a

/-- The targets of every lane of `active`. -/
def targets (s : State) (c : Issue) (disp : Operand) (reg : Option Operand) : List (Nat × Int) :=
  c.active.map (fun l => (l, target s c disp reg l))

/-- The counters that lanes with checked targets take. -/
def jumpsTo (ts : List (Nat × Int)) : List (Nat × Nat) := ts.map (fun t => (t.1, t.2.toNat))

/-- The checks of R207 up to BAD_TARGET, in its order. -/
def checkTransfer (s : State) (c : Issue) (x : Fields) (srcs : List Src) (ts : List (Nat × Int)) : Except Stop Unit := do
  checkOperands s c srcs .zero 1
  c.guardUse x
  checkPoison s c srcs
  checkTargets c ts

def execBra (x : Fields) (s : State) : Host.Outcome State Fault Refusal :=
  issueJump s x (fun c => do
    let ts := targets s c x.a none
    checkTransfer s c x [] ts
    .ok (s, jumpsTo ts))

def execBrx (x : Fields) (s : State) : Host.Outcome State Fault Refusal :=
  issueJump s x (fun c => do
    let ts := targets s c x.b (some x.a)
    checkTransfer s c x [srcA x 1] ts
    .ok (s, jumpsTo ts))

/-! ### Calls and returns -/

/-- Hardware entries of a return stack (R35) and frames of the spill area (R36). -/
def stackDepth : Nat := 16
def spillFrames : Nat := 64

/-- Push the return address in the lanes of `active`, spilling full stacks; no lane pushes when one would overflow (R36, R37). A frame holds
addresses alone: an entry that was poisoned is clean once it has been spilled and filled again (log 74). -/
def pushReturn (s : State) (c : Issue) : Except Stop State := do
  stopIf (c.active.any (fun l => decide (stackDepth ≤ (c.wave.lane l).stack.length) && decide (spillFrames ≤ (c.wave.lane l).spilled)))
    (fault Cause.rstackOverflow 0)
  let full := c.active.filter (fun l => decide (stackDepth ≤ (c.wave.lane l).stack.length))
  let s ← full.foldlM (fun s l => spillFrame s c l (c.wave.lane l).spilled ((c.wave.lane l).stack.map Prod.fst).reverse) s
  .ok (s.own c (fun w => w.mapLanes c.active.contains (fun l y =>
    let e := (BitVec.ofNat 32 (c.pc + 12), false)
    if full.contains l then { y with stack := [e], spilled := y.spilled + 1 } else { y with stack := e :: y.stack })))

def execCall (x : Fields) (s : State) : Host.Outcome State Fault Refusal :=
  issueJump s x (fun c => do
    let ts := targets s c x.a none
    checkTransfer s c x [] ts
    let s ← pushReturn s c
    .ok (s, jumpsTo ts))

def execCallx (x : Fields) (s : State) : Host.Outcome State Fault Refusal :=
  issueJump s x (fun c => do
    let ts := targets s c x.b (some x.a)
    checkTransfer s c x [srcA x 1] ts
    let s ← pushReturn s c
    .ok (s, jumpsTo ts))

/-- A lane's stack is filled again: its hardware part is empty and a frame stands spilled (R36). -/
def refills (c : Issue) : List Nat := c.active.filter (fun l => (c.wave.lane l).stack.isEmpty && decide (0 < (c.wave.lane l).spilled))

/-- A lane's return stack as RET finds it: filled from the newest frame when the hardware part is empty (R36). -/
def filledStack (s : State) (c : Issue) (l : Nat) : Except Stop (List (Word × Bool)) :=
  let y := c.wave.lane l
  if y.stack.isEmpty && decide (0 < y.spilled) then fillFrame s c l (y.spilled - 1) else .ok y.stack

/-- RET's checks: a poisoned entry, then the targets, then an empty stack (R37, R210). -/
def checkReturn (c : Issue) (sts : List (Nat × List (Word × Bool))) (ts : List (Nat × Int)) : Except Stop Unit := do
  stopIf (sts.any (fun t => (t.2.head?.map Prod.snd).getD false)) (fault Cause.poisonUse 0)
  checkTargets c ts
  stopIf (sts.any (fun t => t.2.isEmpty)) (fault Cause.rstackEmpty 0)

def execRet (x : Fields) (s : State) : Host.Outcome State Fault Refusal :=
  issueJump s x (fun c => do
    c.guardUse x
    let sts ← c.active.mapM (fun l => (filledStack s c l).map (fun st => (l, st)))
    let ts := sts.filterMap (fun t => t.2.head?.map (fun e => (t.1, (e.1.toNat : Int))))
    let s := (refills c).foldl (fun s l => touchFrame s c l ((c.wave.lane l).spilled - 1)) s
    afterReads s c (checkReturn c sts ts)
    .ok (s.own c (fun w => w.mapLanes c.active.contains (fun l y =>
      match sts.find? (fun t => t.1 == l) with
      | some t => { y with stack := t.2.tail, spilled := if y.stack.isEmpty then y.spilled - 1 else y.spilled }
      | none => y)), jumpsTo ts))

/-! ### EXIT, YIELD, TRAP, BPT -/

/-- A lane that has executed EXIT: no counter, its frames released (R25, R211). -/
def Lane.exit (y : Lane) : Lane := { y with state := .exited, held := false, stack := [], spilled := 0 }

def execExit (x : Fields) (s : State) : Host.Outcome State Fault Refusal :=
  issue s x (fun c => do
    c.guardUse x
    let s := s.own c (fun w => w.mapLanes c.active.contains (fun _ y => y.exit))
    match s.wave? c.wave.uid with
    | some w => if w.liveLanes.isEmpty then .ok (s.withdraw c.block.cluster (· == w.uid)) else .ok s
    | none => .ok s)

/-- The waves that a yielding wave lets go first: the other resident waves of its slice with a head group. Those that cannot issue
do not hold it, which its next issue looks at (R212, `State.endYield`). -/
def sliceMates (s : State) (c : Issue) : List Nat :=
  (s.waves.filter (fun w => w.uid != c.wave.uid && w.slice == c.wave.slice && w.headPc.isSome
    && (s.block? w.block).any (fun b => b.cluster == c.block.cluster))).map Wave.uid

def execYield (x : Fields) (s : State) : Host.Outcome State Fault Refusal :=
  issue s x (fun c =>
    let mates := sliceMates s c
    .ok (if c.active.isEmpty || mates.isEmpty then s else s.own c (fun w => { w with yielded := some { mates := mates, left := 64 } })))

def execTrap (x : Fields) (s : State) : Host.Outcome State Fault Refusal :=
  issue s x (fun c => do
    if c.active.isEmpty then .ok s
    else
      checkOperands s c [srcA x 1] .zero 1
      checkPoison s c [srcA x 1]
      .error (.trap { code := Cause.userTrap, detail := BitVec.ofNat 32 (uniformVal s c x.a 1), addr := 0 }))

def execBpt (x : Fields) (s : State) : Host.Outcome State Fault Refusal :=
  issue s x (fun c =>
    if c.active.isEmpty || ! c.part.debugger then .ok s
    else .ok ((s.own c (fun w => { w with stopped := true })).tell
      (.debug c.wave.uid c.pc (BitVec.ofNat 32 (uniformVal s c x.a 1)))))

end Sys2Proof.Machine
end

