-- ==== Sys2Proof/Machine/Tasks.lean ====
section
/-! DEFINITION. Lane tasks, the work distributor and waits for global time (R41, R304-R309). -/

namespace Sys2Proof.Machine

/-! ### TSPAWN (R304, R305) -/

/-- Records that a partition's task queue holds at most. -/
def taskRoom : Nat := 8192

/-- Address of the next free record of the task arena; records are never written twice. -/
def arenaAddr (p : Part) (i : Nat) : Nat := p.arena + 64 * (p.arenaNext + i)

/-- The records of one TSPAWN: one for each lane of `active`, or one for the group (R305). -/
def spawnLanes (c : Issue) (x : Fields) : List Nat := if isVReg x.a then c.active else c.active.take 1

/-- The sixteen words of a lane's record. -/
def recordWords (s : State) (c : Issue) (x : Fields) (l : Nat) : List Word := wordsOf 16 (readOp s c x.a 16 l).val

/-- The physical address of a record in the arena, which the grid reads only (R304); a missing page parks the wave (R374). -/
def arenaPhys (s : State) (c : Issue) (i : Nat) : Except Stop Nat :=
  let va := arenaAddr c.part i
  match lookup s c.part c.die va with
  | .missing true => .error (park (s.touchPage c.part c.die va) c 1 va)
  | _ => translate s c va true false

/-- Put records into a partition's task queue and arena; each has a grid, an identifier, an entry and its bytes. -/
def State.enqueue (s : State) (p g : Nat) (rs : List (Nat × List Word)) : State :=
  rs.foldl (fun s r =>
    match s.part? p, s.grid? g with
    | some q, some h =>
      let t : TaskRecord := { grid := g, id := h.nextTask, entry := (r.2.headD 0).toNat, addr := BitVec.ofNat 64 (arenaAddr q 0),
                              since := s.module.time }
      let s := s.recallDirty q (fun d => d.sector == r.1 / 32 || d.sector == r.1 / 32 + 1)
      let s := s.writeBytes r.1 (r.2.flatMap (fun w => natToBytes 4 w.toNat))
      let s := s.onGrid g (fun h => { h with nextTask := h.nextTask + 1 })
      s.onPart p (fun q => { q with tasks := q.tasks ++ [t], arenaNext := q.arenaNext + 1 })
    | _, _ => s) s

/-- Records queued in a partition. -/
def Part.queued (p : Part) : Nat := p.tasks.length

/-- Records that the wave's TSPAWN has enqueued already. -/
def Wave.spawned (w : Wave) : Nat := match w.wait with | some (.spawning n) => n | _ => 0

/-- The checks of a TSPAWN, over every lane, before any record is enqueued (R305). -/
def checkSpawn (s : State) (c : Issue) (x : Fields) : Except Stop Unit := do
  c.guardUse x
  checkOperands s c [srcA x 16] x.d 1
  checkPoison s c [srcA x 16]
  let bad := fun (e : Word) => e.toNat % 12 != 0 || decide (c.grid.codesz ≤ e.toNat)
  match ((spawnLanes c x).map (fun l => (recordWords s c x l).headD 0)).find? bad with
  | some e => .error (fault Cause.badTarget e.toNat)
  | none => .ok ()

/-- The identifiers of records that lanes have enqueued, the first of them `first`: each lane's in its V register, the first of all
once in an S register. -/
def Wave.putIds (w : Wave) (c : Issue) (x : Fields) (lanes : List Nat) (first : Nat) (begins : Bool) : Wave :=
  if isVReg x.d && isVReg x.a then w.putResult x.d 1 lanes (fun l => plain ((first + lanes.idxOf l) % 2 ^ 32))
  else if begins then w.putResult x.d 1 c.active (fun _ => plain (first % 2 ^ 32))
  else w

/-- Enqueue the records that remain, as far as there is room: with records left over the wave stays. -/
def spawnRest (s : State) (c : Issue) (x : Fields) : Effect := do
  let done := c.wave.spawned
  let recs := ((spawnLanes c x).drop done).map (fun l => (l, recordWords s c x l))
  let at_ ← (recs.mapIdx (fun i r => (i, r))).mapM (fun r => (arenaPhys s c r.1).map (fun a => (a, r.2.2)))
  let n := min (taskRoom - c.part.queued) recs.length
  stopIf (n == 0) .wait
  let s := s.cacheVas c ((List.range n).map (arenaAddr c.part))
  let s := (s.enqueue c.part.id c.grid.id (at_.take n)).own c (fun w =>
    w.putIds c x ((recs.take n).map Prod.fst) c.grid.nextTask.toNat (done == 0))
  stopIf (decide (n < recs.length)) (.stay (s.own c (fun w => { w with wait := some (.spawning (done + n)) })))
  .ok s

/-- TSPAWN enqueues its records one by one and waits while the queue is full (R305). -/
def execTspawn (x : Fields) (s : State) : Host.Outcome State Fault Refusal :=
  issue s x (fun c => do
    if c.wave.spawned = 0 then checkSpawn s c x
    if c.active.isEmpty then .ok s else spawnRest s c x)

/-- The grid has no live wave other than task waves (R41); the waves of a block whose tile is without power stand in its image. -/
def onlyTasks (s : State) (g : Grid) : Bool :=
  s.waves.all (fun w => w.retired || (s.block? w.block).all (fun b => b.grid != g.id || b.task))
    && g.placed.all (fun e => s.blocks.any (fun b => b.grid == g.id && ! b.task && b.lin == e.1))

/-- The gatherer forms a wave from a grid's oldest records with one entry: 32 are there, no other wave of the grid lives, or
1 µs has passed since the oldest was enqueued (R41). -/
def execTaskGatherTimeout (grid entry : Nat) (s : State) : Host.Outcome State Fault Refusal :=
  match s.grid? grid with
  | none => .next s
  | some g =>
    match s.part? g.part with
    | none => .next s
    | some p =>
      let mine := p.tasks.filter (fun t => t.grid == grid && t.entry == entry)
      match mine with
      | [] => .next s
      | t :: _ =>
        let now := 32 ≤ mine.length || onlyTasks s g
        let s := if now then s else s.reach (t.since + 1000)
        let recs := mine.take 32
        if ! now && decide (s.module.time < t.since + 1000) then .next s
        else .next (s.onPart p.id (fun p =>
          { p with tasks := p.tasks.filter (fun t => ! recs.contains t), taskWaves := p.taskWaves ++ [{ grid := grid, records := recs, resume := 0 }] }))

/-! ### WDQ (R306, R307) -/

/-- A tag ready for a transfer of `n` chunks: ones beyond the tile, zeros elsewhere (R93). -/
def startMap (n : Nat) : DWord := BitVec.allOnes 64 <<< n

/-- The dispenser is bound to the grid. -/
def boundTo (p : Part) (n g : Nat) : Bool := decide (n < 16) && (p.dispenser n).grid == some g

def execWdq (x : Fields) (s : State) : Host.Outcome State Fault Refusal :=
  issue s x (fun c => do
    c.guardUse x
    let srcs := [srcA x 1, srcB x 1, srcC x 1]
    checkOperands s c srcs .zero 1
    checkPoison s c srcs
    if c.active.isEmpty then .ok s
    else
      let dsp := uniformVal s c x.a 1
      let tag := uniformVal s c x.b 1
      let off := uniformVal s c x.c 1
      stopIf (! boundTo c.part dsp c.grid.id) (fault Cause.wdqBind dsp)
      stopIf (decide (c.block.alloc.tag ≤ tag ∨ c.block.alloc.spm * Config.spmBytes < off + 4)) (fault Cause.grantRange 0)
      stopIf (off % 4 != 0) (faultAt Cause.misaligned 0 off)
      stopIf (s.tagPending c.block.uid tag) .wait
      let (n, s) := s.take
      let k : Copy := { id := n, kind := .query, part := c.part.id, block := c.block.uid, wave := c.wave.uid, tag := tag,
                        record := [], space := .sp, scope := .bk, left := [0], pieces := [], ranges := 0, common := 0, rows := 0, stride := 0,
                        rtag := 0, receivers := [], slot := dsp, index := BitVec.ofNat 32 off, seq := n }
      let s := s.ownBlock c (fun b => b.setTag tag { map := startMap 1, failed := none })
      .ok { s with copies := s.copies ++ [k] })

/-- A query's answer and the dispenser after it (R306). -/
def Dispenser.query (d : Dispenser) : Word × Dispenser :=
  if d.i < d.x * d.y then (BitVec.ofNat 32 (d.i / d.x * 2 ^ 16 + d.i % d.x), { d with i := d.i + 1 }) else (0xFFFFFFFF, d)

/-- A query reaches its dispenser and is answered, then the answer is written and chunk bit 0 set: one event each. -/
def execWdqAnswer (copy : Nat) (s : State) : Host.Outcome State Fault Refusal :=
  match s.copy? copy with
  | none => .next s
  | some k =>
    if k.kind != .query then .next s
    else match k.record with
      | [] =>
        if s.copies.any (fun q => q.kind == .query && q.wave == k.wave && q.slot == k.slot && q.record.isEmpty && decide (q.id < k.id))
        then .next s
        else match s.part? k.part with
          | none => .next s
          | some p =>
            let (a, d) := (p.dispenser k.slot).query
            .next ((s.setCopy { k with record := [a] }).onPart p.id (fun p => p.setDispenser k.slot d))
      | a :: _ =>
        if copyBlocked s k (spots .sp k.block k.index.toNat 4) then .next s
        else
          let s := s.writeSp false k.block k.index.toNat (natToBytes 4 a.toNat)
          let s := s.onBlock k.block (fun b => b.setTag k.tag { b.tag k.tag with map := BitVec.allOnes 64 })
          .next { s with copies := s.copies.filter (fun q => q.id != copy) }

/-! ### TIME (R309) -/

def execTime (x : Fields) (s : State) : Host.Outcome State Fault Refusal :=
  issue s x (fun c => do
    checkOperands s c [srcA x 2] x.d 2
    if c.active.isEmpty then .ok s
    else
      checkPoison s c [srcA x 2]
      let until_ := uniformVal s c x.a 2
      if s.timeOf c.part < until_ then
        .error (.stay (s.own c (fun w => { w with wait := some (.deadline (BitVec.ofNat 64 until_) x) })))
      else .ok (s.own c (fun w => w.putResult x.d 2 c.active (fun l => { val := s.timeOf c.part, pz := guardPoisoned c.wave x l }))))

/-- Global time reaches the deadline of a wave's TIME, and the sample is written. -/
def execTimeDeadlineReached (u : Nat) (s : State) : Host.Outcome State Fault Refusal :=
  match s.wave? u with
  | none => .next s
  | some w =>
    match w.wait, (s.block? w.block).bind (fun b => s.partOfCluster b.cluster) with
    | some (.deadline t x), some p =>
      let s' := { s.reachTime p t.toNat with issuing := u }
      if s.canReachTime p t.toNat && (s'.issue? x).isSome then execTime x s' else .next s
    | _, _ => .next s

end Sys2Proof.Machine
end

