-- ==== Sys2Proof/Machine/CopyTags.lean ====
section
/-! DEFINITION. Tensor copies and tags: CPT, CPM, TWAIT, TFIND, TCHK and TFREE as they issue, and what a copy engine moves
(R93, R147, R275-R284). -/

namespace Sys2Proof.Machine

/-! ### Chunks -/

/-- The tile bytes of a chunk. -/
def chunkBytes (total c : Nat) : List Nat := (List.range (min 512 (total - 512 * c))).map (512 * c + ·)

/-! ### CPT and CPM at issue -/

/-- The rank that a tag operand names; an S register holds it in bits 5:0, with the rest zero (R275). -/
def tagRank (s : State) (c : Issue) (o : Operand) : Nat :=
  match o with
  | .t n => n.val
  | .imm32 w => w.toNat
  | o => uniformVal s c o 1

/-- The record's registers as they stand. -/
def readRecord (s : State) (c : Issue) (o : Operand) : List Word := wordsOf 8 (uniformVal s c o 8)

/-- Permission on every page of the span; an unmapped page is left to the engine (R277). The walks count with the access (R358). -/
def checkSpan (s : State) (c : Issue) (base span : Nat) (write : Bool) : Except Stop Unit := do
  stopIf (decide (0 < span ∧ 2 ^ 58 < base + span)) (faultAt Cause.addrRange 0 base)
  stopIf (decide (0 < span) && inPrivate c.part base span) (faultAt Cause.permission 0 base)
  let pages := if span = 0 then 0 else (base + span - 1) / 2 ^ 14 - base / 2 ^ 14 + 1
  (List.range pages).forM (fun i =>
    let va := max base ((base / 2 ^ 14 + i) * 2 ^ 14)
    match lookup s c.part c.die va with
    | .missing _ => .ok ()
    | _ => (translate s c va (! write) write).map (fun _ => ()))

/-- The ranges that a span enters (R87). -/
def spanRanges (w : Wave) (base span : Nat) : BitVec 9 :=
  let hit := (List.range 8).filter (fun i =>
    let r := w.g.getD i { base := 0, limit := 0 }
    decide (0 < span ∧ r.base.toNat < base + span ∧ base < r.limit.toNat ∧ r.base.toNat < r.limit.toNat))
  if hit.isEmpty then BitVec.twoPow 9 8 else hit.foldl (fun m i => m ||| BitVec.twoPow 9 i) 0

/-- A copy with the common fields. -/
def Copy.base (c : Issue) (kind : CopyKind) (x : Fields) (tag : Nat) (r : List Word) (left : List Nat) (ranges : BitVec 9) : Copy :=
  { id := 0, kind := kind, part := c.part.id, block := c.block.uid, wave := c.wave.uid, tag := tag, record := r, space := x.space,
    scope := x.scope, left := left, pieces := [], ranges := ranges, common := 0, rows := 0, stride := 0, rtag := 0, receivers := [], slot := 0,
    index := 0, seq := 0 }

/-- Hand a copy to the engine: it is the newest operation of its wave. -/
def State.addCopy (s : State) (k : Copy) : State :=
  let (n, s) := s.take
  { s with copies := s.copies ++ [{ k with id := n, seq := n }] }

def execCpt (x : Fields) (s : State) : Host.Outcome State Fault Refusal :=
  issue s x (fun c => do
    c.guardUse x
    checkOperands s c [srcA x 8] .zero 1
    checkPoison s c [srcA x 8]
    if c.active.isEmpty then .ok s
    else
      let tag := tagRank s c x.d
      let r := readRecord s c x.a
      stopIf (decide (c.block.alloc.tag ≤ tag)) (fault Cause.grantRange 0)
      match recFault r with
      | some i => .error (fault Cause.copyParam i)
      | none =>
        stopIf (recDoff r % 128 != 0) (faultAt Cause.misaligned 0 (recDoff r))
        stopIf (! inGrant s c x.space (recDoff r) (recTotal r)) (fault Cause.grantRange 0)
        stopIf (s.tagPending c.block.uid tag || accessHeld c.wave) .wait
        checkSpan s c (recBase r) (recSpan r) (x.opt.getLsbD 0)
        let ranges := spanRanges c.wave (recBase r) (recSpan r)
        checkCounts s c.wave none ranges
        let s := s.touchSpan c.part c.die (recBase r) (recSpan r)
        let kind := if x.opt.getLsbD 0 then CopyKind.store else .load
        let s := s.ownBlock c (fun b => b.setTag tag { map := startMap (recChunks r), failed := none })
        .ok (s.addCopy (Copy.base c kind x tag r (List.range (recChunks r)) ranges)))

/-- CPM's own operands: FIRST, COMMON, RTAG, receivers, STRIDE (R279). -/
structure Cpm where
  first : Nat
  common : Nat
  rtag : Nat
  count : Nat
  stride : Nat
  reserved : Bool
  deriving DecidableEq, Repr

def cpmOf (s : State) (c : Issue) (x : Fields) : Cpm :=
  let r := uniformVal s c x.b 2
  let w := r / 2 ^ 32
  { first := r % 2 ^ 32, common := w / 2 ^ 16, rtag := w / 2 ^ 4 % 2 ^ 6, count := w % 2 ^ 4 + 1, stride := uniformVal s c x.c 1,
    reserved := w / 2 ^ 10 % 2 ^ 6 != 0 }

/-- Rows of one receiver's own slice. -/
def Cpm.rows (m : Cpm) (r : List Word) : Nat := (recRows r - m.common) / m.count

/-- Bytes delivered to each receiver. -/
def Cpm.bytes (m : Cpm) (r : List Word) : Nat := (m.common + m.rows r) * recRowBytes r

/-- COPY_PARAM by place: the record, then 9 and 10 for CPM's own operands (R279). -/
def cpmFault (r : List Word) (m : Cpm) : Option Nat :=
  match recFault r with
  | some i => some i
  | none =>
    if m.reserved ∨ recRows r < m.common ∨ (recRows r - m.common) % m.count ≠ 0 ∨ 32768 < m.bytes r then some 9
    else if m.stride % 128 ≠ 0 then some 10
    else none

/-- The block of a receiver index, if it is resident in the issuer's stack domain and holds RTAG; one whose tile is without power, its state
in an image, is not resident (log 72). -/
def receiverOf (s : State) (c : Issue) (m : Cpm) (i : Nat) : Option Block :=
  s.blocks.find? (fun b => b.grid == c.grid.id && ! b.task && b.lin == m.first + i && decide (m.rtag < b.alloc.tag)
    && b.cluster / Config.clustersPerDomain == c.block.cluster / Config.clustersPerDomain)

/-- Begin a delivery into a receiver's RTAG: its map is set over the delivered bytes (R279). -/
def startReceiver (s : State) (block rtag bytes : Nat) : State :=
  s.onBlock block (fun b => b.setTag rtag { map := startMap (ceilDiv bytes 512), failed := none })

/-- CPM (R279). The order of its own faults, which the manual does not give, is the model's: the tag's rank, the record, the alignment of
DOFF, the receivers, the extent in each `.sp` (log 19). -/
def execCpm (x : Fields) (s : State) : Host.Outcome State Fault Refusal :=
  issue s x (fun c => do
    c.guardUse x
    let srcs := [srcA x 8, srcB x 2, srcC x 1, srcD x 1]
    checkOperands s c srcs .zero 1
    checkPoison s c srcs
    if c.active.isEmpty then .ok s
    else
      let tag := tagRank s c x.d
      let r := readRecord s c x.a
      let m := cpmOf s c x
      stopIf (decide (c.block.alloc.tag ≤ tag)) (fault Cause.grantRange 0)
      match cpmFault r m with
      | some i => .error (fault Cause.copyParam i)
      | none =>
        stopIf (recDoff r % 128 != 0) (faultAt Cause.misaligned 0 (recDoff r))
        match (List.range m.count).find? (fun i => (receiverOf s c m i).isNone) with
        | some i => .error (fault Cause.cpmTarget i)
        | none =>
          let bs := (List.range m.count).filterMap (receiverOf s c m)
          stopIf ((bs.mapIdx (fun i b => decide (b.alloc.spm * Config.spmBytes < recDoff r + i * m.stride + m.bytes r))).any id)
            (fault Cause.grantRange 0)
          stopIf (s.tagPending c.block.uid tag || accessHeld c.wave) .wait
          checkSpan s c (recBase r) (recSpan r) false
          let ranges := spanRanges c.wave (recBase r) (recSpan r)
          checkCounts s c.wave none ranges
          let s := s.touchSpan c.part c.die (recBase r) (recSpan r)
          let s := s.ownBlock c (fun b => b.setTag tag { map := startMap 1, failed := none })
          let start := fun (b : Block) => ! s.tagPending b.uid m.rtag
          let rcv := bs.map (fun b => ({ block := b.uid, left := List.range (ceilDiv (m.bytes r) 512), started := start b } : Receiver))
          let s := (bs.filter start).foldl (fun s b => startReceiver s b.uid m.rtag (m.bytes r)) s
          .ok (s.addCopy { Copy.base c .multi x tag r [0] ranges with
            space := .sp, common := m.common, rows := m.rows r, stride := m.stride, rtag := m.rtag, receivers := rcv }))

/-! ### Tags (R278, R281-R284) -/

/-- A tag of the block is ready (R93). -/
def tagReady (b : Block) (n : Nat) : Bool := decide (n < b.alloc.tag) && (b.tag n).map == BitVec.allOnes 64

/-- Observing a failed tag faults (R278, R376). -/
def observe (t : Tag) : Except Stop Unit :=
  match t.failed with
  | none => .ok ()
  | some .uncorrectable => .error (fault Cause.uncorrectable 0)
  | some (.xlate va) => .error (faultAt Cause.xlate 0 va.toNat)

/-- The tags of a 64-bit mask. -/
def maskTags (m : Nat) : List Nat := (List.range 64).filter (fun n => m.testBit n)

/-- TWAIT: `need` says whether the ready tags of the mask are enough (R281). -/
def tagWait (need : List Nat → List Nat → Bool) (x : Fields) (s : State) : Host.Outcome State Fault Refusal :=
  issue s x (fun c => do
    checkOperands s c [srcA x 2] .zero 1
    checkPoison s c [srcA x 2]
    if c.active.isEmpty then .ok s
    else
      let ts := maskTags (uniformVal s c x.a 2)
      stopIf (ts.any (fun n => decide (c.block.alloc.tag ≤ n))) (fault Cause.grantRange 0)
      let ready := ts.filter (tagReady c.block)
      stopIf (! ts.isEmpty && ! need ready ts) .wait
      ready.forM (fun n => observe (c.block.tag n))
      .ok s)

def execTwaitAny (x : Fields) (s : State) : Host.Outcome State Fault Refusal := tagWait (fun ready _ => ! ready.isEmpty) x s
def execTwaitAll (x : Fields) (s : State) : Host.Outcome State Fault Refusal :=
  tagWait (fun ready ts => ready.length == ts.length) x s

def execTfind (x : Fields) (s : State) : Host.Outcome State Fault Refusal :=
  issue s x (fun c => do
    checkOperands s c [srcA x 2] x.d 1
    checkPoison s c [srcA x 2]
    if c.active.isEmpty then .ok s
    else
      let n := ((maskTags (uniformVal s c x.a 2)).find? (tagReady c.block)).getD 64
      if n < 64 then observe (c.block.tag n) else .ok ()
      .ok (s.own c (fun w => w.putResult x.d 1 c.active (guardMark c x n))))

/-- The chunk bits of `cmask` are all set in the map. -/
def chunksSet (t : Tag) (cmask : Nat) : Bool := t.map &&& BitVec.ofNat 64 cmask == BitVec.ofNat 64 cmask

def execTchkTest (x : Fields) (s : State) : Host.Outcome State Fault Refusal :=
  issue s x (fun c => do
    checkOperands s c [srcB x 2] x.d 1
    checkPoison s c [srcB x 2]
    if c.active.isEmpty then .ok s
    else
      let n := tagRank s c x.a
      stopIf (decide (c.block.alloc.tag ≤ n)) (fault Cause.grantRange 0)
      observe (c.block.tag n)
      let v := (chunksSet (c.block.tag n) (uniformVal s c x.b 2)).toNat
      .ok (s.own c (fun w => w.putResult x.d 1 c.active (guardMark c x v))))

def execTchkWait (x : Fields) (s : State) : Host.Outcome State Fault Refusal :=
  issue s x (fun c => do
    checkOperands s c [srcB x 2] .zero 1
    checkPoison s c [srcB x 2]
    if c.active.isEmpty then .ok s
    else
      let n := tagRank s c x.a
      stopIf (decide (c.block.alloc.tag ≤ n)) (fault Cause.grantRange 0)
      stopIf (! chunksSet (c.block.tag n) (uniformVal s c x.b 2)) .wait
      observe (c.block.tag n)
      .ok s)

def execTfree (x : Fields) (s : State) : Host.Outcome State Fault Refusal :=
  issue s x (fun c => do
    if c.active.isEmpty then .ok s
    else
      let n := tagRank s c x.a
      stopIf (decide (c.block.alloc.tag ≤ n)) (fault Cause.grantRange 0)
      stopIf (s.tagPending c.block.uid n) .wait
      .ok (s.ownBlock c (fun b => b.setTag n .start)))

/-! ### What the engine moves (R124, R147, R277-R280) -/

/-- One byte of a source chunk: its value, and whether it could not be corrected. -/
abbrev Moved := Byte × Bool

/-- Physical addresses of tile bytes, walked by the walker of die `die`; none outside the tensor. -/
def tileAddrs (s : State) (p : Part) (die : Nat) (r : List Word) (ts : List Nat) (write : Bool) : Except Reach (List (Option Nat)) :=
  ts.mapM (fun t => match tileSource r t with
    | none => .ok none
    | some va => (feAddr s p die va write).map some)

/-- The pages of tile bytes have been used (R358, R373). -/
def State.touchTile (s : State) (p : Part) (die : Nat) (r : List Word) (ts : List Nat) : State :=
  ((ts.filterMap (tileSource r)).map (fun va => va / 2 ^ 14 * 2 ^ 14)).eraseDups.foldl (fun s va => s.touchPage p die va) s

/-- Read tile bytes from the tensor through a core's L1, dirty sectors elsewhere recalled first, which a dark or stopped tile makes
it wait for (R124, R125); zeros outside. -/
def fetchTile (s : State) (p : Part) (core : Nat) (r : List Word) (ts : List Nat) : Except Reach (State × List Moved) := do
  let die := dieOfCluster (core / Config.coresPerCluster)
  let as_ ← tileAddrs s p die r ts false
  let secs := sectorsOf (as_.filterMap id)
  let s := secs.foldl (fun s x => s.recallFrom p core x) (s.touchTile p die r ts)
  if secs.any (s.elsewhere core) then .error .waiting else
  .ok (s, (List.zip ts as_).map (fun t => match t.2 with
      | none => (0, false)
      | some a => (if tileHalf r t.1 then s.viewByte core a &&& 0x0F else s.viewByte core a, s.viewBad core a)))

/-- Report the errors that the tile bytes of a chunk met (R399). -/
def noteTile (s : State) (p : Part) (core : Nat) (r : List Word) (ts : List Nat) : State :=
  match tileAddrs s p (dieOfCluster (core / Config.coresPerCluster)) r ts false with
  | .ok as_ =>
    let secs := sectorsOf ((as_.filterMap id).filter (s.viewBad core))
    noteL1 (noteSectors s p.id secs) p.id core secs
  | .error _ => s

/-- Bytes of a chunk after a move: with an error anywhere in it, each byte holds its old value or the value read (R278). -/
def settleChunk (draw : Nat) (old : List Byte) (ms : List Moved) : List Byte :=
  if ms.any Prod.snd then (List.zip old ms).mapIdx (fun i m => if Config.keepOld (draw + i) then m.1 else m.2.1) else ms.map Prod.fst

/-- Mark a tag failed. -/
def failTag (s : State) (block tag : Nat) (e : TagError) : State :=
  s.onBlock block (fun b => b.setTag tag { b.tag tag with failed := some e })

/-- Set a chunk bit. -/
def setChunk (s : State) (block tag c : Nat) : State :=
  s.onBlock block (fun b => b.setTag tag { b.tag tag with map := (b.tag tag).map ||| BitVec.twoPow 64 c })

/-- The block whose scratchpad a copy's tile lies in, with the offset (R119). Where a peer's block has retired since the issue, the issuer's
own scratchpad takes its place (log 72). -/
def copyTile (s : State) (k : Copy) (b : Block) (g : Grid) : Nat × Nat :=
  if k.space = .csp then (((cspOwnerOf s g b (recDoff k.record)).map Block.uid).getD b.uid, cspOffset (recDoff k.record))
  else (b.uid, recDoff k.record)

/-- Sectors of a scratchpad range. -/
def spadSpots (csp : Bool) (owner a n : Nat) : List Spot :=
  ((List.range n).map (fun i => (if csp then 2 else 1, owner, (a + i) / 32))).eraseDups

/-- The global sectors of tile bytes. -/
def tileGlobal (s : State) (p : Part) (die : Nat) (r : List Word) (ts : List Nat) (write : Bool) : List Spot :=
  match tileAddrs s p die r ts write with
  | .ok as_ => (sectorsOf (as_.filterMap id)).map (fun x => (0, 0, x))
  | .error _ => []

/-- Stop a copy for good: what is left stays unwritten, its bits set, the tag marked failed (R376). -/
def failCopy (s : State) (k : Copy) (e : TagError) : State :=
  let whole := fun (s : State) (block tag : Nat) =>
    s.mapBlocks (fun b => if b.uid = block then b.setTag tag { map := BitVec.allOnes 64, failed := some e } else b)
  let s := whole s k.block k.tag
  let s := (k.receivers.filter (fun r => ! r.left.isEmpty)).foldl (fun s r => whole s r.block k.rtag) s
  let drop := fun (i : Image) => { i with copies := i.copies.filter (fun (q : Copy) => ! (i.current && q.id == k.id)) }
  { s with copies := s.copies.filter (fun q => q.id != k.id)
           clusters := s.clusters.map (fun (e : Nat × Cluster) => (e.1, e.2.mapImages drop)) }

/-- A copy by name, one that stands in the image of a stopped cluster among them. -/
def State.anyCopy? (s : State) (id : Nat) : Option Copy := s.allCopies.find? (fun k => k.id == id)

/-- What a copy engine does when it cannot reach a byte: it waits, parks, or fails its tag (R374, R376). -/
def copyStop (s : State) (k : Copy) (p : Part) (b : Block) (e : Reach) : State :=
  let s := s.touchReach p (dieOfCluster b.cluster) e
  match e with
  | .waiting => s
  | .missing va => s.openFault (dieOfCluster b.cluster) k.part 2 b.cluster b.core k.tag va (.copy k.id)
  | .denied _ => failCopy s k (.xlate (BitVec.ofNat 64 (recBase k.record)))
  | .uncorrectable a _ => failCopy (s.noteError (State.placeOfAddr a) a k.part) k .uncorrectable

/-- The destination sector of a chunk that a copy writes next: sectors are written one by one, each whole (R147). -/
def Copy.piece (k : Copy) (key : Nat) (secs : List Nat) : Option Nat := secs.find? (fun x => ! k.pieces.contains (key, x))

/-- The sector is the chunk's last. -/
def Copy.lastPiece (k : Copy) (key : Nat) (secs : List Nat) (x : Nat) : Bool := secs.all (fun y => y == x || k.pieces.contains (key, y))

def Copy.wrote (k : Copy) (key x : Nat) : Copy := { k with pieces := (key, x) :: k.pieces }
def Copy.forget (k : Copy) (key : Nat) : Copy := { k with pieces := k.pieces.filter (fun e => e.1 != key) }

/-- Take a chunk off a copy; with none left the copy is over. -/
def doneChunk (s : State) (k : Copy) (c : Nat) : State :=
  let left := k.left.filter (· != c)
  if left.isEmpty then { s with copies := s.copies.filter (fun q => q.id != k.id) } else s.setCopy { k.forget c with left := left }

/-- The sectors of `n` bytes from `a`, and the part of the bytes there that lies in sector `x`, with its address. -/
def sectorsFrom (a n : Nat) : List Nat := ((List.range n).map (fun i => (a + i) / 32)).eraseDups
def inSector (a : Nat) (bs : List Byte) (x : Nat) : Nat × List Byte :=
  let lo := max a (32 * x)
  (lo, (bs.drop (lo - a)).take (min (a + bs.length) (32 * x + 32) - lo))

/-- Move the next sector of a chunk of a CPT load into the scratchpad; after the last one the chunk's bit is set. -/
def loadChunk (s : State) (k : Copy) (p : Part) (b : Block) (g : Grid) (c : Nat) : State :=
  let ts := chunkBytes (recTotal k.record) c
  let (owner, off) := copyTile s k b g
  let csp := k.space == .csp
  let secs := sectorsFrom (off + 512 * c) ts.length
  let x := (k.piece c secs).getD 0
  if copyBlocked s k (spadSpots csp owner (off + 512 * c) ts.length ++ tileGlobal s p (dieOfCluster b.cluster) k.record ts false) then s
  else match fetchTile s p b.coreIndex k.record ts with
    | .error e => copyStop s k p b e
    | .ok (s, ms) =>
      let old := ts.map (fun t => s.spByte csp owner (off + t))
      let w := inSector (off + 512 * c) (settleChunk s.draws old ms) x
      let s := { s.writeSp csp owner w.1 w.2 with draws := s.draws + 512 }
      if ! k.lastPiece c secs x then s.setCopy (k.wrote c x)
      else
        let s := if ms.any Prod.snd then failTag (noteTile s p b.coreIndex k.record ts) k.block k.tag .uncorrectable else s
        doneChunk (setChunk s k.block k.tag c) k c

/-- Write tile bytes, each with its physical address, to the tensor as dirty sectors of the core, and back to their homes at `.cl` or wider
(R122, R144); whether a write-back meets an error. -/
def storeTile (s : State) (p : Part) (core wave : Nat) (r : List Word) (scope : Scope) (bs : List (Nat × Nat × Byte)) : State × Bool :=
  let (age, s) := s.take
  let s := s.dirtyBytes core wave age (bs.map (fun t =>
    (t.2.1, (tileSource r t.1).getD 0, if tileHalf r t.1 then (s.viewByte core t.2.1 &&& 0xF0) ||| (t.2.2 &&& 0x0F) else t.2.2)))
  let mine := fun (d : Dirty) => scope.wideCl && d.core == core && bs.any (fun t => t.2.1 / 32 == d.sector)
  (s.flush p mine, s.flushBad p mine)

/-- The destination sectors that a CPT store has written stand under one key for all its chunks. -/
def storeKey : Nat := 64

/-- Every tile byte of a copy that lies in the sector of address `va`, whichever chunk it belongs to (R147). -/
def sectorTile (r : List Word) (va : Nat) : List Nat :=
  (List.range (recTotal r)).filter (fun t => (tileSource r t).any (fun a => a / 32 == va / 32))

/-- Tile bytes of a scratchpad, and for each whether a byte of its chunk cannot be corrected (R278). -/
def tileBytesOf (s : State) (csp : Bool) (owner off total : Nat) (ts : List Nat) : List Moved :=
  ts.map (fun t => ((spadByte s csp owner (off + t)).1, (chunkBytes total (t / 512)).any (fun u => s.sramIsBad owner csp (off + u))))

/-- The bytes that are stored: those of a chunk with an error each hold the old value or the one read (R278). -/
def settleBytes (draw : Nat) (old : List Byte) (ms : List Moved) : List Byte :=
  (List.zip old ms).mapIdx (fun i m => if m.2.2 && Config.keepOld (draw + i) then m.1 else m.2.1)

/-- Move the next destination sector of a chunk of a CPT store into the tensor: all of the copy's bytes in it at once, those of other
chunks too (R147). After the chunk's last sector, or where it has none, its bit is set. A write-back that meets an error fails the tag
(R397). -/
def storeChunk (s : State) (k : Copy) (p : Part) (b : Block) (g : Grid) (c : Nat) : State :=
  let die := dieOfCluster b.cluster
  let ts := chunkBytes (recTotal k.record) c
  let (owner, off) := copyTile s k b g
  let csp := k.space == .csp
  match tileAddrs s p die k.record ts true with
  | .error e => copyStop s k p b e
  | .ok as_ =>
    let secs := sectorsOf (as_.filterMap id)
    let x := (k.piece storeKey secs).getD 0
    let mine := match (List.zip ts as_).find? (fun t => (k.piece storeKey secs).isSome && t.2.any (fun a => a / 32 == x)) with
      | some t => sectorTile k.record ((tileSource k.record t.1).getD 0)
      | none => []
    if copyBlocked s k (mine.flatMap (fun t => spadSpots csp owner (off + t) 1) ++ secs.map (fun y => (0, 0, y))) then s
    else
      let s := s.touchTile p die k.record ts
      let addrs := mine.map (fun t => 32 * x + (tileSource k.record t).getD 0 % 32)
      let new := settleBytes s.draws (addrs.map (s.viewByte b.coreIndex)) (tileBytesOf s csp owner off (recTotal k.record) mine)
      let (t, bad) := storeTile s p b.coreIndex k.wave k.record k.scope (List.zip mine (List.zip addrs new))
      let s := { t with draws := s.draws + 512 }
      let s := if bad then failTag s k.block k.tag .uncorrectable else s
      if ! k.lastPiece storeKey secs x then s.setCopy (k.wrote storeKey x)
      else
        let failed := ts.any (fun t => s.sramIsBad owner csp (off + t))
        let s := if failed then failTag (noteSpad s p.id csp owner (off + 512 * c) ts.length) k.block k.tag .uncorrectable else s
        let k := if mine.isEmpty then k else k.wrote storeKey x
        doneChunk (setChunk s k.block k.tag c) k c

/-! ### CPM deliveries (R279, R280) -/

/-- Bytes that each receiver of a CPM gets. -/
def Copy.share (k : Copy) : Nat := (k.common + k.rows) * recRowBytes k.record

/-- The tile byte that byte `d` of receiver `i` holds: the common slice, then its own. -/
def deliveredByte (k : Copy) (i d : Nat) : Nat :=
  let common := k.common * recRowBytes k.record
  if d < common then d else (k.common + i * k.rows) * recRowBytes k.record + (d - common)

/-- An earlier copy is still pending on the receiver's RTAG (R280). -/
def rtagBusy (s : State) (k : Copy) (block : Nat) : Bool :=
  (s.allCopies.filter (fun q => decide (q.id < k.id))).any (Copy.pendsOn block k.rtag)

/-- Deliver the next sector of chunk `c` to receiver `i`; after the last one the chunk's bit is set. -/
def deliver (s : State) (k : Copy) (p : Part) (b : Block) (i c : Nat) (r : Receiver) : State :=
  if ! r.started && rtagBusy s k r.block then s
  else
    let s := if r.started then s else startReceiver s r.block k.rtag k.share
    let r := { r with started := true }
    let ts := (chunkBytes k.share c).map (deliveredByte k i)
    let dst := recDoff k.record + i * k.stride + 512 * c
    let k := { k with receivers := k.receivers.set i r }
    let s := s.setCopy k
    let key := 64 * i + c
    let secs := sectorsFrom dst ts.length
    let x := (k.piece key secs).getD 0
    if copyBlocked s k (spadSpots false r.block dst ts.length ++ tileGlobal s p (dieOfCluster b.cluster) k.record ts false) then s
    else match fetchTile s p b.coreIndex k.record ts with
      | .error e => copyStop s k p b e
      | .ok (s, ms) =>
        let old := (List.range ts.length).map (fun j => s.spByte false r.block (dst + j))
        let w := inSector dst (settleChunk s.draws old ms) x
        let s := { s.writeSp false r.block w.1 w.2 with draws := s.draws + 512 }
        if ! k.lastPiece key secs x then s.setCopy (k.wrote key x) else
        let s := if ms.any Prod.snd then
            failTag (failTag (noteTile s p b.coreIndex k.record ts) r.block k.rtag .uncorrectable) k.block k.tag .uncorrectable else s
        let s := setChunk s r.block k.rtag c
        let k := { k.forget key with receivers := k.receivers.set i { r with left := r.left.filter (· != c) } }
        if k.receivers.all (fun r => r.left.isEmpty) then
          { setChunk s k.block k.tag 0 with copies := s.copies.filter (fun q => q.id != k.id) }
        else s.setCopy k

/-- A block that stands in the image of a cluster, waiting to be restored. -/
def State.imaged (s : State) (b : Nat) : Bool :=
  s.clusters.any (fun e => [e.2.imageA, e.2.imageB].any (fun i => i.any (fun i => i.complete && i.blocks.any (fun x => x.uid == b))))

/-- A receiver that is gone for good takes no more chunks. -/
def skipReceiver (s : State) (k : Copy) (i : Nat) (r : Receiver) : State :=
  let k := { k with receivers := k.receivers.set i { r with left := [] } }
  if k.receivers.all (fun r => r.left.isEmpty) then
    { setChunk s k.block k.tag 0 with copies := s.copies.filter (fun q => q.id != k.id) }
  else s.setCopy k

def execCpmDelivery (copy rcv chunk : Nat) (s : State) : Host.Outcome State Fault Refusal :=
  match s.copy? copy with
  | none => .next s
  | some k =>
    match s.part? k.part, s.block? k.block, k.receivers[rcv]? with
    | some p, some b, some r =>
      .next (if k.kind != .multi || ! r.left.contains chunk || s.parked (.copy copy) then s
             else if (s.block? r.block).isSome then deliver s k p b rcv chunk r
             else if s.imaged r.block then s
             else skipReceiver s k rcv r)
    | _, _, _ => .next s

end Sys2Proof.Machine
end

