-- ==== Sys2Proof/Machine/Fences.lean ====
section
/-! DEFINITION. Fences, ranges, persist fences and waits on counters (R87, R88, R143, R144, R252-R257). -/

namespace Sys2Proof.Machine

/-! ### Masks -/

/-- The mask that an operand gives: the ranges it names, or every range and OTHER when it is ZERO (R253). -/
def maskBits (o : Operand) : BitVec 9 :=
  match o with
  | .imm b => b.zeroExtend 9
  | _ => BitVec.allOnes 9

/-- The ranges of a mask as they stand; none for no mask. -/
def maskRanges (w : Wave) (o : Operand) : Option (List Range) :=
  match o with
  | .imm b => some (((List.range 8).filter (fun i => b.getLsbD i)).map (fun i => w.g.getD i { base := 0, limit := 0 }))
  | _ => none

/-- A sector lies inside a mask. -/
def insideMask (rs : Option (List Range)) (va : Nat) : Bool :=
  match rs with
  | none => true
  | some rs => rs.any (fun r => r.overlaps va 32)

/-- The wave's counts for a mask are zero (R143). -/
def countsZero (s : State) (w : Wave) (m : BitVec 9) : Bool :=
  (List.range 9).all (fun i => ! m.getLsbD i || rangeCount s w i == 0)

/-! ### FENCE and RANGE -/

/-- Leave a release mark on lanes of the issuing wave (R143). -/
def Wave.addMark (w : Wave) (m : FenceMark) : Wave :=
  if w.marks.any (fun k => decide (k.after ≤ m.after) && decide ({ k with after := m.after } = m)) then w
  else { w with marks := w.marks ++ [m] }

/-- The release part of a fence: write back the core's dirty sectors inside the mask, then mark the lanes (R143, R253); an error that
a write-back meets faults the fence (R397). -/
def fenceRelease (s : State) (c : Issue) (rs : Option (List Range)) (scope : Scope) : Except Stop State := do
  let inside := fun (d : Dirty) => d.core == c.core && insideMask rs d.va
  let bad := scope.wideCl && s.flushBad c.part inside
  let s := if scope.wideCl then s.flush c.part inside else s
  stopIf bad (.stay (s.raise c uncorrectableTrap c.pc))
  stopIf (scope.wideCl && s.dirty.any inside) .wait
  .ok (s.own c (fun w => w.addMark { lanes := maskOf c.active, after := w.nextOp, inside := rs, only := none, scope := scope }))

/-- Earlier reads that `p` names act as acquires: at `.sd` or wider the releases that they met promote (R142), and the acquire
waits for what they cover; at `.cl` or wider the core's clean copies that `gone` names go. -/
def acquireSeen (s : State) (c : Issue) (scope : Scope) (p : Seen → Bool) (gone : Clean → Bool) : Except Stop State := do
  let marks := (c.wave.seen.filter p).flatMap Seen.marks
  let covered := fun (d : Dirty) => scope.wideSd && d.core != c.core && marks.any (fun m => State.coveredBy m d)
  let s := s.recallDirty c.part covered
  stopIf (s.dirty.any covered) .wait
  .ok (if scope.wideCl then s.dropClean (fun k => k.core == c.core && gone k) else s)

/-- A read of the wave's threads that lies inside a mask: what an acquire fence acts on, awaited before or not (R143). -/
def Seen.inside (rs : Option (List Range)) (e : Seen) : Bool := e.lanes != 0 && insideMask rs e.va

/-- The acquire part: earlier loads inside the mask act as acquires at the fence's scope, and the clean copies inside it go
(R142, R143, R253). -/
def fenceAcquire (s : State) (c : Issue) (rs : Option (List Range)) (scope : Scope) : Except Stop State :=
  acquireSeen s c scope (Seen.inside rs) (fun k => insideMask rs k.va)

/-- FENCE; R84's last paragraph and R236 differ on a poisoned guard here, and it faults (log 22). -/
def execFence (x : Fields) (s : State) : Host.Outcome State Fault Refusal :=
  issue s x (fun c => do
    c.guardUse x
    if c.active.isEmpty then .ok s
    else
      stopIf (! countsZero s c.wave (maskBits x.a)) .wait
      let s ← if x.order == .rel || x.order == .ar then fenceRelease s c (maskRanges c.wave x.a) x.scope else .ok s
      if x.order == .acq || x.order == .ar then fenceAcquire s c (maskRanges c.wave x.a) x.scope else .ok s)

/-- The range register that D names. -/
def gIndex (o : Operand) : Nat := match o with | .g n => n.val | _ => 0

/-- RANGE rewrites a range register; a poisoned guard faults as for FENCE (log 22). -/
def execRange (x : Fields) (s : State) : Host.Outcome State Fault Refusal :=
  issue s x (fun c => do
    checkAccess s c x [srcA x 2, srcB x 2] .zero 1
    if c.active.isEmpty then .ok s
    else
      let n := gIndex x.d
      stopIf (rangeCount s c.wave n != 0) .wait
      let r : Range := { base := BitVec.ofNat 64 (uniformVal s c x.a 2), limit := BitVec.ofNat 64 (uniformVal s c x.b 2) }
      .ok (s.own c (fun w => { w with g := w.g.set n r })))

/-! ### PFENCE -/

/-- Tensor copies of the wave that still write to global memory (R254). -/
def copiesOut (s : State) (w : Wave) : List Copy :=
  s.copies.filter (fun k => k.wave == w.uid && k.kind == .store && ! k.left.isEmpty)

/-- A write of `n` bytes lies inside a mask (R254): no mask takes in every write; otherwise one of the mask's range registers, in whose
count the operation stands, holds some of its bytes. -/
def writeInside (w : Wave) (m counted : BitVec 9) (va n : Nat) : Bool :=
  m.getLsbD 8 || (List.range 8).any (fun i => m.getLsbD i && counted.getLsbD i
    && (w.g.getD i { base := 0, limit := 0 }).overlaps va n)

/-- The elements that a tensor copy has still to write, by their addresses. -/
def copyLeft (k : Copy) : List Nat :=
  ((List.range (recTotal k.record)).filter (fun t => k.left.contains (t / 512))).filterMap (tileSource k.record)

/-- Uncompleted writes of the wave that lie inside a mask: stores, copy destinations, atomics; a source is no write (R254). -/
def writesPending (s : State) (w : Wave) (m : BitVec 9) : Bool :=
  w.pend.any (fun p => ! p.isLoad && p.kind != .matrix && p.kind != .receive && (p.space == .g || p.space == .pv && m.getLsbD 8)
      && p.left.any (fun a => writeInside w m p.ranges a.va p.size))
    || (copiesOut s w).any (fun k => (copyLeft k).any (fun va => writeInside w m k.ranges va 1))

/-- A sector of the persistent window (R130). -/
def persistentSector (sector : Nat) : Bool := 32 * sector / Config.mramBit % 2 == 1

/-- A byte that a tensor copy still writes lies in the persistent window, or may do so, while its page has no translation yet
(R358, R374). -/
def copyPersists (s : State) (p : Part) (die : Nat) (k : Copy) : Bool :=
  (copyLeft k).any (fun va =>
    match lookup s p die va with | .leaf l => persistentSector (l.phys va / 32) | _ => true)

/-- Close the cluster's image with the wave at its new boundary: the block's newest tile-persist point (R254, R388). -/
def persistPoint (c : Issue) (s : State) : State :=
  let s := s.onBlock c.block.uid (fun b => { b with persisted := (s.cluster c.block.cluster).epoch + 1 })
  s.closeImage c.block.cluster false false

/-- A persist fence (R254-R256): `writes` holds while an awaited write is unperformed, `sectors` are the dirty sectors that must have
reached their backing store. A poisoned guard faults as for FENCE (log 22). -/
def persistFence (s : State) (x : Fields) (writes : Issue → Bool) (sectors : Issue → Dirty → Bool) :
    Host.Outcome State Fault Refusal :=
  issueFull s x (fun c => do
    c.guardUse x
    if c.active.isEmpty then .ok (s, [])
    else
      stopIf (writes c) .wait
      let mine := fun (d : Dirty) => d.core == c.core && sectors c d
      let bad := s.flushBad c.part mine
      let s := s.flush c.part mine
      stopIf bad (.stay (s.raise c uncorrectableTrap c.pc))
      stopIf (s.dirty.any mine) .wait
      .ok (s, []))
    (fun c s => if c.active.isEmpty then s else persistPoint c s)

def execPfenceTile (x : Fields) (s : State) : Host.Outcome State Fault Refusal :=
  persistFence s x (fun c => writesPending s c.wave (maskBits x.a)) (fun c d => insideMask (maskRanges c.wave x.a) d.va)

def execPfenceMod (x : Fields) (s : State) : Host.Outcome State Fault Refusal :=
  persistFence s x (fun c => c.wave.pend.any (fun p => isGlobal p.space && ! p.isLoad
        && p.left.any (fun a => persistentSector (a.addr / 32)))
      || (copiesOut s c.wave).any (copyPersists s c.part c.die)) (fun _ d => persistentSector d.sector)

/-! ### WAITCNT (R92, R144, R257) -/

/-- An operation of the class that a WAITCNT with count `n` has waited for: none of the newest `n` (R92, R144). -/
def Wave.awaits (w : Wave) (cls n k rank : Nat) : Bool := k == cls && decide (rank + n < w.issued.getD cls 0)

/-- The reads that a WAITCNT makes acquires: those that it has waited for and that none has awaited before (R144). -/
def Wave.readsAwaited (w : Wave) (cls n : Nat) (e : Seen) : Bool := ! e.waited && w.awaits cls n e.cls e.rank

/-- What a WAITCNT releases: the writes that it has waited for and that stand in the L1, each at its own scope, for every later store of
the wave (R144). -/
def Wave.releaseAwaited (w : Wave) (cls n : Nat) : Wave :=
  let waited := fun (e : Unawaited) => w.awaits cls n e.cls e.rank
  let mine := w.wrote.filter waited
  let v := (mine.map Unawaited.scope).eraseDups.foldl (fun v o => v.addMark
    { lanes := BitVec.allOnes 32, after := w.nextOp, inside := none, only := some ((mine.filter (fun e => e.scope == o)).map Unawaited.sector),
      scope := o }) w
  { v with wrote := w.wrote.filter (fun e => ! waited e) }

/-- The awaited reads act as acquires, each at its own scope (R144). -/
def acquireAwaited (s : State) (c : Issue) (cls n : Nat) : Except Stop State :=
  ((c.wave.seen.filter (c.wave.readsAwaited cls n)).map Seen.scope).eraseDups.foldlM
    (fun s o => acquireSeen s c o (fun e => c.wave.readsAwaited cls n e && e.scope == o) (fun _ => true)) s

/-- The wave remembers which reads a WAITCNT has awaited; a later fence may still make them acquire at its own scope (R143). -/
def Wave.noteAwaited (w : Wave) (cls n : Nat) : Wave :=
  { w with seen := (w.seen.map (fun e => if w.readsAwaited cls n e then { e with waited := true, rank := 0 } else e)).eraseDups }

/-- WAITCNT; a poisoned guard faults as for FENCE (log 22). -/
def execWaitcnt (cls : Fin 6) (x : Fields) (s : State) : Host.Outcome State Fault Refusal :=
  issue s x (fun c => do
    c.guardUse x
    if c.active.isEmpty then .ok s
    else
      let n := uniformVal s c x.a 1
      stopIf (decide (n < c.wave.counter cls)) .wait
      if cls.val == 2 && c.wave.copyError then
        .error (.stay ((s.own c (fun w => { w with copyError := false })).raise c uncorrectableTrap c.pc))
      else
        let s ← acquireAwaited s c cls n
        .ok (s.own c (fun w => (w.releaseAwaited cls n).noteAwaited cls n)))

end Sys2Proof.Machine
end

