-- ==== Sys2Proof/Machine/Sync.lean ====
section
/-! DEFINITION. Barriers, gates and opens (R32, R45-R47, R287-R294). -/

namespace Sys2Proof.Machine

/-! ### Barriers -/

/-- The number of a barrier as IMM32 gives it: level in bits 5:4, index in bits 3:0 (R12). -/
def barKey (o : Operand) : Nat :=
  match o with
  | .bar level index => level.val * 16 + index.val
  | .imm32 w => w.toNat
  | _ => 0

/-- The kernel's COUNT for a barrier; 0 where it declares none (R287, R332). -/
def Grid.count (g : Grid) (key : Nat) : Nat := g.counts.getD (key - 16) 0

/-- The cluster group of a block (R24). -/
def groupOf (g : Grid) (b : Block) : Nat := b.lin / g.group

/-- A barrier's instance as a block meets it: per block, per cluster group or per grid (R287). -/
def barrierOf (g : Grid) (b : Block) (key : Nat) : Barrier :=
  match key / 16 with
  | 1 => Sparse.get .start b.bb (key % 16)
  | 2 => Sparse.get .start g.cb (groupOf g b * 16 + key % 16)
  | _ => Sparse.get .start g.gb (key % 16)

def State.setBarrier (s : State) (g : Grid) (b : Block) (key : Nat) (x : Barrier) : State :=
  match key / 16 with
  | 1 => s.onBlock b.uid (fun b => { b with bb := Sparse.set .start b.bb (key % 16) x })
  | 2 => s.onGrid g.id (fun g => { g with cb := Sparse.set .start g.cb (groupOf g b * 16 + key % 16) x })
  | _ => s.onGrid g.id (fun g => { g with gb := Sparse.set .start g.gb (key % 16) x })

/-- Merge a status word: bits 5:0 by OR, COUNT by saturating addition (R267). -/
def mergeStat (a b : Word) : Word :=
  BitVec.ofNat 32 ((a.toNat ||| b.toNat) % 2 ^ 6 + min 255 (a.toNat / 2 ^ 8 % 2 ^ 8 + b.toNat / 2 ^ 8 % 2 ^ 8) * 2 ^ 8)

/-- One arrival that merges `stat`: at COUNT the phase flips in one step (R267, R287). -/
def Barrier.arrive (x : Barrier) (count : Nat) (stat : Word) : Barrier :=
  let st := mergeStat x.stat stat
  if x.arr + 1 = count then { arr := 0, ph := x.ph + 1, stat := 0, last := st }
  else { x with arr := (x.arr + 1) % 4096, stat := st }

/-- Phase `t` of a barrier has completed (R291). -/
def Barrier.passed (x : Barrier) (t : Word) : Bool := decide (1 ≤ (x.ph - t).toNat ∧ (x.ph - t).toNat ≤ 2 ^ 31)

/-- A barrier the kernel does not declare, or any but WB0 in a task wave (R42, R293). -/
def checkMember (c : Issue) (key : Nat) : Except Stop Unit :=
  stopIf (key != 0 && (c.block.task || c.grid.count key == 0)) (fault Cause.barrierMember key)

/-- The counters that an arrival, an OPEN and a CHSEND wait for: LD, ST, CPL, ATM and RED (R288, R294, R299). -/
def isQuiet (w : Wave) : Bool := [0, 1, 2, 3, 4].all (fun k => w.counter k == 0)

/-- The scope that an arrival releases at and a completion acquires at (R288). -/
def barScope (key : Nat) : Scope :=
  match key / 16 with
  | 2 => .cl
  | 3 => .gd
  | _ => .bk

/-- Steps 1 to 3 of R288: the wave's arrival, with the phase it joined. -/
def arrival (s : State) (c : Issue) (key : Nat) : Except Stop (State × Word) := do
  stopIf (! isQuiet c.wave) .wait
  let s ← releaseFlush s c (barScope key)
  let x := barrierOf c.grid c.block key
  let s := s.setBarrier c.grid c.block key (x.arrive (c.grid.count key) 0)
  .ok (s.own c (fun w => { w with arrivals := (key, x.ph) :: w.arrivals.filter (fun e => e.1 != key) }), x.ph)

/-- The completion of a BARS or BARW on a CB or GB barrier discards the core's clean copies (R288). -/
def barAcquire (s : State) (c : Issue) (key : Nat) : State := if 2 ≤ key / 16 then s.discard c.core else s

def execBara (x : Fields) (s : State) : Host.Outcome State Fault Refusal :=
  let key := barKey x.a
  issue s x (fun c => do
    if c.active.isEmpty then .ok () else checkMember c key
    collective s c (
      if c.active.isEmpty then .ok s
      else do
        checkOperands s c [] x.d 1
        let (s, ph) ← arrival s c key
        .ok (s.own c (fun w => w.putResult x.d 1 c.active (guardMark c x ph.toNat)))))

/-- BARS arrives once, then holds its group until the phase that it joined is over (R290); on WB0 the whole wave has arrived with it, and
each lane's later releases carry what every lane did before (R138). -/
def execBars (x : Fields) (s : State) : Host.Outcome State Fault Refusal :=
  let key := barKey x.a
  issue s x (fun c => do
    if c.active.isEmpty then .ok () else checkMember c key
    collective s c (
      if c.active.isEmpty then .ok s
      else if key == 0 then .ok (s.own c Wave.joinLanes)
      else match c.wave.wait with
        | some (.barrier _ t) =>
          if (barrierOf c.grid c.block key).passed t then .ok (barAcquire s c key) else .error .wait
        | _ => do
          let (s', ph) ← arrival s c key
          let x := (barrierOf c.grid c.block key).arrive (c.grid.count key) 0
          if x.passed ph then .ok (barAcquire s' c key)
          else .error (.stay (s'.own c (fun w => { w with wait := some (.barrier key ph) })))))

/-- The phase that BARW waits for (R291). -/
def waitPhase (s : State) (c : Issue) (x : Fields) (key : Nat) : Word :=
  if x.opt.getLsbD 0 then BitVec.ofNat 32 (uniformVal s c x.b 1)
  else match c.wave.wait with
    | some (.barrier _ t) => t
    | _ => match c.wave.arrivals.find? (fun e => e.1 == key) with
      | some e => e.2
      | none => (barrierOf c.grid c.block key).ph

def execBarw (x : Fields) (s : State) : Host.Outcome State Fault Refusal :=
  let key := barKey x.a
  issue s x (fun c => do
    if c.active.isEmpty then .ok s
    else
      checkMember c key
      checkOperands s c [srcB x 1] .zero 1
      checkPoison s c [srcB x 1]
      let t := waitPhase s c x key
      if (barrierOf c.grid c.block key).passed t then .ok (barAcquire s c key)
      else .error (.stay (s.own c (fun w => { w with wait := some (.barrier key t) }))))

/-- LAST to D and PH to D+1 (R292). -/
def execBarq (x : Fields) (s : State) : Host.Outcome State Fault Refusal :=
  let key := barKey x.a
  issue s x (fun c => do
    if c.active.isEmpty then .ok s
    else
      checkMember c key
      checkOperands s c [] x.d 2
      let b := barrierOf c.grid c.block key
      .ok (s.own c (fun w => w.putResult x.d 2 c.active (guardMark c x (b.last.toNat + 2 ^ 32 * b.ph.toNat)))))

/-! ### Gates (R45-R47, R294) -/

/-- The wait gate's generation is open, or the grid has no wait gate (R46). -/
def gateIsOpen (p : Part) (g : Grid) : Bool :=
  match g.wgate with
  | none => true
  | some r => p.gates.all (fun x => ! (x.gate == r.gate && x.gen == r.gen) || x.isOpen)

def execGate (x : Fields) (s : State) : Host.Outcome State Fault Refusal :=
  issue s x (fun c =>
    if c.active.isEmpty then .ok s
    else if gateIsOpen c.part c.grid then .ok (s.discard c.core)
    else .error .wait)

/-- Blocks of a grid (R24). -/
def Grid.blockCount (g : Grid) : Nat := g.dimX * g.dimY * g.dimZ

/-- Count a block towards its grid's open gate; the generation opens with the last (R45). -/
def State.markOpen (s : State) (g : Grid) (lin : Nat) : State :=
  let seen := if g.opened.contains lin then g.opened else lin :: g.opened
  let s := s.onGrid g.id (fun g => { g with opened := seen })
  if seen.length < g.blockCount then s
  else s.onPart g.part (fun p => { p with gates := p.gates.map (fun (x : Generation) =>
    if x.opener = g.id then { x with isOpen := true } else x) })

/-- OPEN: the block counts as one that has opened its grid's gate; task blocks do not count (R45; log 57). -/
def execOpenGate (x : Fields) (s : State) : Host.Outcome State Fault Refusal :=
  issue s x (fun c => do
    if c.active.isEmpty || c.grid.ogate.isNone || c.block.opened then .ok s
    else
      stopIf (! isQuiet c.wave) .wait
      let s ← releaseFlush s c .gd
      let s := s.ownBlock c (fun b => { b with opened := true })
      .ok (if c.block.task then s else s.markOpen c.grid c.block.lin))

end Sys2Proof.Machine
end

