-- ==== Sys2Proof/Machine/Completion.lean ====
section
/-! DEFINITION. How packets, graph nodes and grids complete: completion actions, timelines, and the working counts of a graph
table (R43, R328-R330, R340, R341, R344). -/

namespace Sys2Proof.Machine

/-! ### Timelines and completion actions -/

/-- Write a timeline; a value below the one before is reported, and written all the same (R341). -/
def State.writeTimeline (s : State) (p n : Nat) (v : DWord) : State :=
  match s.part? p with
  | none => s
  | some q =>
    let s := s.onPart p (fun q => q.setTimeline n v)
    if v.toNat < (q.timeline n).toNat then s.tell (.timelineBackward p n (q.timeline n) v) else s

/-- Add to a timeline modulo 2^64 (R340). -/
def State.addTimeline (s : State) (p n : Nat) (v : DWord) : State :=
  match s.part? p with
  | none => s
  | some q => s.writeTimeline p n (q.timeline n + v)

/-- SIG and IRQ act at a packet's completion (R328); the partition's completion vector has its number (R409). -/
def State.actions (s : State) (p : Nat) (f : Flight) : State :=
  let s := if f.sig then s.addTimeline p f.tl 1 else s
  if f.irq then s.tell (.msix p) else s

/-- Change a queue slot. -/
def State.onQueue (s : State) (p slot : Nat) (f : Queue → Queue) : State :=
  s.onPart p (fun q => q.setQueue slot (f (q.queue slot)))

/-- A dispatched packet completes (R329). -/
def State.completeFlight (s : State) (p slot : Nat) (f : Flight) : State :=
  (s.onQueue p slot (fun q => { q with flights := q.flights.filter (fun g => g != f) })).actions p f

/-- The flights of a queue whose work is `w` complete. -/
def State.completeWork (s : State) (p slot : Nat) (w : Work) : State :=
  match s.part? p with
  | none => s
  | some q => ((q.queue slot).flights.filter (fun f => f.work == w)).foldl (fun s f => s.completeFlight p slot f) s

/-! ### Graph tables (R343, R344) -/

/-- Address of node `i` of a table. -/
def nodeAddr (table i : Nat) : Nat := table + 0x80 + 128 * i

/-- Read `n` bytes of a table as a number. -/
def readTable (s : State) (p va n : Nat) : Except Reach (Nat × State) :=
  match s.part? p with
  | none => .error (.denied va)
  | some q => (s.feRead q va n).map (fun r => (bytesToNat r.1, r.2))

/-- Write `n` bytes of a table. -/
def writeTable (s : State) (p va n v : Nat) : Except Reach State :=
  match s.part? p with
  | none => .error (.denied va)
  | some q => s.feWrite q va (natToBytes n v)

/-- Put a node among the ready ones, in ascending order. -/
def insertNode (n : Nat) : List Nat → List Nat
  | [] => [n]
  | m :: t => if n < m then n :: m :: t else m :: insertNode n t

/-- Set bits of the STATUS word. -/
def setStatus (s : State) (p table clear bits : Nat) : Except Reach State := do
  let (v, s) ← readTable s p (table + 8) 4
  writeTable s p (table + 8) 4 ((v - v % 2 ^ 4) + ((v % 2 ^ 4 &&& (15 - clear)) ||| bits))

/-- Decrement COUNT of one successor (R344 step 3): at 0 it stays, with UNDERFLOW; one that reaches 0 becomes ready. -/
def countDown (s : State) (p table n : Nat) : Except Reach State := do
  let (v, s) ← readTable s p (nodeAddr table n + 0x42) 2
  if v = 0 then do
    let s ← setStatus s p table 0 4
    .ok (s.tell (.underflow p table n))
  else do
    let s ← writeTable s p (nodeAddr table n + 0x42) 2 (v - 1)
    .ok (if v = 1 then s.onRun p table (fun r => if r.fault then r else { r with ready := insertNode n r.ready }) else s)

/-- The successors of a node, in SUCC order. -/
def successors (s : State) (p table n : Nat) : Except Reach (List Nat × State) := do
  let (k, s) ← readTable s p (nodeAddr table n + 0x44) 2
  let (v, s) ← readTable s p (nodeAddr table n + 0x48) 16
  .ok ((List.range (min k 8)).map (fun i => v / 2 ^ (16 * i) % 2 ^ 16), s)

/-- A completed node's successors are counted down. -/
def payNode (s : State) (p table n : Nat) : Except Reach State := do
  let (ns, s) ← successors s p table n
  ns.foldlM (fun s m => countDown s p table m) s

/-- The walk at which an access of the front end has ended counts (R358, R371). -/
def State.feCount (s : State) (p : Nat) (e : Reach) : State :=
  match s.part? p with
  | some q => s.touchReach q q.feDie e
  | none => s

/-- What the front end does when it cannot reach a ring or a table: it waits, parks, or faults the queue (R349, R350, R374,
R397). -/
def State.feStop (s : State) (p slot : Nat) (va : DWord) (e : Reach) : State :=
  let s := s.feCount p e
  match e with
  | .waiting => s
  | .missing a => match s.part? p with
    | some q => s.openFault q.feDie p 3 0 0 0 a (.queue p slot)
    | none => s
  | .denied _ => s.faultQueue p slot 10 va.toNat
  | .uncorrectable a _ => (s.noteError (State.placeOfAddr a) a p).faultQueue p slot 0x81 va.toNat

/-- Address of the GRAPH packet of a run. -/
def runAddr (s : State) (p : Nat) (r : GraphRun) : DWord := 
  match s.part? p with
  | some q => BitVec.ofNat 64 (packetAddr (q.queue r.slot) r.index)
  | none => 0

/-- A run whose sink and every launched node have completed is done, and its packet completes (R329, R344 step 4). -/
def State.endRun (s : State) (p : Nat) (r : GraphRun) : State :=
  if r.sinkDone && r.running.isEmpty && r.ready.isEmpty && r.owed.isEmpty && ! r.fault then
    match setStatus s p r.table 1 2 with
    | .error e => s.feStop p r.slot (runAddr s p r) e
    | .ok s => (s.onPart p (fun q => { q with graphs := q.graphs.filter (fun x => x.table != r.table) })).completeWork p r.slot (.graph r.table)
  else s

/-- Count down for the nodes that a run owes, oldest first; `nodes` is the list as it stands. -/
def payNodes (p table : Nat) : State → List Nat → State
  | s, [] => match (s.part? p).bind (fun q => q.graphs.find? (fun r => r.table == table)) with
    | some r => s.endRun p r
    | none => s
  | s, n :: rest =>
    match payNode s p table n with
    | .ok s => payNodes p table (s.onRun p table (fun r => { r with owed := r.owed.erase n, sinkDone := r.sinkDone || n == r.sink })) rest
    | .error e => match (s.part? p).bind (fun q => q.graphs.find? (fun r => r.table == table)) with
      | some r => s.feStop p r.slot (runAddr s p r) e
      | none => s

/-- The FAULT bit of a run that is still to be written, or the page of its table that is missing (R344, R374). -/
def State.payMark (s : State) (p : Nat) (r : GraphRun) : State :=
  match s.part? p with
  | none => s
  | some q => match s.orStatus q r.table 8 with
    | .error (.missing a) => s.feStop p r.slot (runAddr s p r) (.missing a)
    | _ => (s.markGraph p r.table).onPart p Part.endFaulted

/-- What the run owes its table can be worked off now: the table's home has power and its walk is not held (R125, R358). -/
def owes (s : State) (p : Part) (r : GraphRun) : Bool :=
  if r.marking then (match s.orStatus p r.table 8 with | .error .waiting => false | _ => true)
  else match r.owed with
    | [] => false
    | n :: _ => (match payNode s p.id r.table n with | .error .waiting => false | _ => true)

/-- Work off what the run of a table owes. -/
def State.payRun (s : State) (p table : Nat) : State :=
  match (s.part? p).bind (fun q => q.graphs.find? (fun r => r.table == table)) with
  | some r => if s.parked (.queue p r.slot) then s else if r.marking then s.payMark p r else payNodes p table s r.owed
  | none => s

/-! ### Grids (R43) -/

/-- All blocks and task waves of the grid have retired, and no task is pending or may still come (R43, R336). -/
def State.gridOver (s : State) (g : Grid) : Bool :=
  decide (g.blockCount ≤ g.retired.length) && g.again.isEmpty && ! g.topen && g.taskPlaced.isEmpty && s.blocks.all (fun b => b.grid != g.id)
    && (s.part? g.part).all (fun p => p.tasks.all (fun t => t.grid != g.id) && p.taskWaves.all (fun t => t.grid != g.id)
      && (p.queue g.queue).flights.all (fun f => match f.work with | .records h _ => h != g.id | _ => true))

/-- The grid completes: its packet, or its node with the successors' counts. -/
def State.completeGrid (s : State) (g : Grid) : State :=
  let s := (s.forgetGrid g).completeWork g.part g.queue (.grid g.id)
  match g.node, (s.part? g.part).bind (fun p => p.graphs.find? (fun r => r.slot == g.queue && r.index == g.index)) with
  | some n, some r =>
    let s := s.onRun g.part r.table (fun r => { r with running := r.running.filter (· != n), owed := r.owed ++ [n] })
    (s.payRun g.part r.table).onPart g.part Part.endFaulted
  | _, _ => s

/-- Complete the grid if it is over. -/
def State.finishGrid (s : State) (gid : Nat) : State :=
  match s.grid? gid with
  | some g => if s.gridOver g then s.completeGrid g else s
  | none => s

end Sys2Proof.Machine
end

