-- ==== Sys2Proof/Machine/Placement.lean ====
section
/-! DEFINITION. Admission units, what a block starts with, and where a unit may be placed (R23, R42, R44, R48, R52, R53, R69,
R73, R332, R355). -/

namespace Sys2Proof.Machine

/-! ### What a block starts with -/

/-- A block that is to be placed: its grid, its linear index, and for a task block its records (R42). -/
structure Item where
  grid : Grid
  lin : Nat
  records : List TaskRecord
  task : Bool
  resume : Word
  deriving DecidableEq, Repr

/-- Waves of the block: a task block has one (R42). -/
def Item.waves (i : Item) : Nat := if i.task then 1 else i.grid.waves

/-- The private group slot of a wave (R120). -/
def groupSlot (p : Part) (pl : Place) (slot : Nat) : Nat :=
  64 * ((pl.cluster - p.firstCluster) * Config.coresPerCluster + pl.core) + slot

/-- TASKID at the start: the task identifier, or the linear thread number (R27). -/
def startTask (i : Item) (w l : Nat) : Word :=
  if i.task then ((i.records[l]?).map TaskRecord.id).getD 0
  else BitVec.ofNat 32 ((i.lin * i.grid.waves + w) * 32 + l)

/-- Lane `l` of wave `w` as it starts: live, at the entry (R25); beyond the records of a task wave, absent (R41). -/
def startLane (p : Part) (i : Item) (pl : Place) (w slot l : Nat) : Lane :=
  if i.task && decide (i.records.length ≤ l) then .absent
  else { state := .live, pc := if i.task then ((i.records[l]?).map TaskRecord.entry).getD 0 else i.grid.entry, held := false,
         frozen := false, stack := [], spilled := 0, task := startTask i w l, group := groupSlot p pl slot, member := l }

/-- V0:V1 of a task wave's lane: the address of its record (R42). -/
def Wave.startArgs (w : Wave) (rs : List TaskRecord) : Wave :=
  (List.zip (List.range 32) rs).foldl (fun (w : Wave) (r : Nat × TaskRecord) =>
    (w.writeV 0 r.1 { Elem.start with val := r.2.addr.setWidth 32 }).writeV 1 r.1
      { Elem.start with val := (r.2.addr >>> 32).setWidth 32 }) w

/-- Wave `w` of a block as it starts (R73, R95). -/
def startWave (p : Part) (i : Item) (pl : Place) (uid block w : Nat) : Wave :=
  let slot := pl.slots.getD w 0
  let x : Wave :=
    { uid := uid, block := block, waveId := w, slice := pl.slices.getD w 0, slot := slot,
      lanes := (List.range 32).map (startLane p i pl w slot), v := [], s := [], p := [], written := [], g := i.grid.ranges,
      regAlloc := i.grid.regAlloc / i.grid.waves, regClaim := i.grid.regClaim / i.grid.waves, pend := [], nextOp := 0, issued := List.replicate 6 0, arrivals := [],
      locks := [], marks := [], wait := none, stall := 0, yielded := none, trap := .start, handler := false, stopped := false,
      copyError := false, backError := false, retired := false, seen := [], wrote := [] }
  if i.task then x.startArgs i.records else x

/-- A block as it starts: the launch record's allocation, bindings and claim; everything else cleared (R56, R73). A task block
has no linear index, so none of its slots is bound. -/
def startBlock (i : Item) (pl : Place) (uid : Nat) : Block :=
  { uid := uid, grid := i.grid.id, lin := i.lin, task := i.task, cluster := pl.cluster, core := pl.core, claim := i.grid.claim,
    alloc := i.grid.alloc, c := if i.task then List.replicate 16 0 else i.grid.slots, sp := [], csp := [], tags := [], accs := [],
    ctxs := [], bb := [], writes := [], opened := false, resume := i.resume, persisted := 0 }

/-- Make a block resident. The launch acquires what its queue ordered before it, so the clean copies of its core go (R138, R330,
R340, R344). -/
def State.addBlock (s : State) (p : Part) (i : Item) (pl : Place) : State :=
  let b := s.fresh
  let s := s.discard (pl.cluster * Config.coresPerCluster + pl.core)
  { s with fresh := s.fresh + 1 + i.waves
           blocks := s.blocks ++ [startBlock i pl b]
           waves := s.waves ++ (List.range i.waves).map (fun w => startWave p i pl (b + 1 + w) b w) }

/-! ### Where a block may stand -/

/-- Wave slots of a core that a wave holds. -/
def State.slotsUsed (s : State) (cl core : Nat) : List Nat :=
  s.waves.filterMap (fun w => if (s.block? w.block).any (fun b => b.cluster == cl && b.core == core) then some w.slot else none)

/-- The place has a slice of the core and a free wave slot for every wave (R23), and the core is not retired (R400). -/
def placeFits (s : State) (i : Item) (pl : Place) : Bool :=
  let used := s.slotsUsed pl.cluster pl.core
  decide (pl.core < Config.coresPerCluster) && s.coreUsable pl.cluster pl.core && pl.slices.length == i.waves && pl.slots.length == i.waves
    && pl.slices.all (fun x => x / Config.slicesPerCore == pl.core)
    && pl.slots.all (fun x => decide (x < Config.slotsPerCore) && ! used.contains x) && pl.slots.eraseDups.length == pl.slots.length

/-- Clusters where partition state places blocks of a grid, whether or not their tile has power (R392). -/
def Grid.clustersPlaced (g : Grid) : List Nat := g.placed.map Prod.snd ++ g.taskPlaced.map Prod.snd

/-- Clusters that hold a resident block of the grid, one that stands in an image among them (R24). -/
def State.clustersOf (s : State) (g : Nat) : List Nat :=
  ((s.blocks.filter (fun b => b.grid == g)).map Block.cluster ++ ((s.grid? g).map Grid.clustersPlaced).getD []).eraseDups

/-- The clusters that hold a resident block of the partition (R352). -/
def State.clustersBusy (s : State) (p : Part) : List Nat :=
  ((s.blocks.map Block.cluster ++ (s.grids.filter (fun g => g.part == p.id)).flatMap Grid.clustersPlaced).eraseDups.filter p.hasCluster)

/-- CUSED (R352). -/
def State.clustersUsed (s : State) (p : Part) : Nat := (s.clustersBusy p).length

/-- The limits in force that a placement obeys: the checker's alone (R332), or also the resident-block limit, seniority, the
checker's order and the clusters budget (R62, R66, R69, R355). -/
inductive Rules where
  | idle
  | admission
  deriving DecidableEq, Repr

/-- The cluster accepts one more block under R355 2-5, before the checker's test. An admission is a request like the others: it is
decided once those before it are, and after a scan that is due (R62, R65; log 34). -/
def clusterAccepts (s : State) (r : Rules) (cl : Nat) : Bool :=
  let n := (s.residents cl).length
  decide (n < 64) && (r == .idle ||
    ((s.cluster cl).power && decide (n < (s.cluster cl).rbl) && ! s.hasSenior cl && (s.cluster cl).gck.queue.isEmpty
      && ! (s.cluster cl).gck.scan))

/-- Place one block: the state with it resident, if every condition holds (R24, R69, R355). -/
def tryBlock (s : State) (p : Part) (r : Rules) (i : Item) (pl : Place) : Option State :=
  if p.hasCluster pl.cluster && placeFits s i pl && clusterAccepts s r pl.cluster then
    let s' := s.addBlock p i pl
    if decide ((s'.clustersOf i.grid.id).length ≤ i.grid.clusters) && (r == .idle || (s.clustersBusy p).contains pl.cluster || decide (s'.clustersUsed p ≤ p.budget.clus))
        && s'.passes pl.cluster then some s' else none
  else none

/-! ### Whether a unit can be placed at all -/

/-- The ways to share `n` waves out among `k` slices. -/
def splits : Nat → Nat → List (List Nat)
  | 0, n => if n = 0 then [[]] else []
  | k + 1, n => (List.range (n + 1)).flatMap (fun i => (splits k (n - i)).map (fun t => i :: t))

/-- The slices of the waves for one such way. -/
def slicesOf (core : Nat) (split : List Nat) : List Nat :=
  (List.zip (List.range Config.slicesPerCore) split).flatMap (fun e => List.replicate e.2 (core * Config.slicesPerCore + e.1))

/-- The lowest free wave slots of a core. -/
def freeSlots (s : State) (cl core n : Nat) : List Nat :=
  ((List.range Config.slotsPerCore).filter (fun x => ! (s.slotsUsed cl core).contains x)).take n

/-- The places of a block in a cluster, up to the choice of wave slots. -/
def placesIn (s : State) (i : Item) (cl : Nat) : List Place :=
  (List.range Config.coresPerCluster).flatMap (fun core =>
    (splits Config.slicesPerCore i.waves).map (fun split =>
      { cluster := cl, core := core, slices := slicesOf core split, slots := freeSlots s cl core i.waves }))

/-- The clusters of a partition. -/
def Part.clusters (p : Part) : List Nat := (List.range p.clusterCount).map (p.firstCluster + ·)

/-- Where a block of a unit may stand: in any cluster, with the block before it, or in the cluster that its cluster group has
already (R23, R52). -/
inductive Seat where
  | any
  | same
  | home (cl : Nat)
  deriving DecidableEq, Repr

/-- The blocks of a unit in order, each with its seat. -/
abbrev Roster := List (Item × Seat)

/-- The clusters of a seat; `cur` is the cluster of the block before. -/
def Seat.clusters (seat : Seat) (all : List Nat) (cur : Nat) : List Nat :=
  match seat with
  | .any => all
  | .same => [cur]
  | .home cl => if all.contains cl then [cl] else []

/-- Some placement of the blocks passes; `cur` is the cluster of the block before. -/
def canPlace (p : Part) (r : Rules) (clusters : List Nat) : State → Nat → Roster → Bool
  | _, _, [] => true
  | s, cur, (i, seat) :: rest =>
    (seat.clusters clusters cur).any (fun cl => (placesIn s i cl).any (fun pl =>
      match tryBlock s p r i pl with
      | some s' => canPlace p r clusters s' cl rest
      | none => false))

/-- Place the blocks where the dispatcher says. -/
def placeAll (p : Part) (r : Rules) : State → Nat → Roster → List Place → Option State
  | s, _, [], [] => some s
  | s, cur, (i, seat) :: rest, pl :: pls =>
    if ! (seat.clusters p.clusters cur).contains pl.cluster then none
    else match tryBlock s p r i pl with
      | some s' => placeAll p r s' pl.cluster rest pls
      | none => none
  | _, _, _, _ => none

/-! ### Units -/

/-- The grid declares a CB barrier, or a GB barrier (R52). -/
def Grid.hasCb (g : Grid) : Bool := ((g.counts.drop 16).take 16).any (· != 0)
def Grid.hasGb (g : Grid) : Bool := (g.counts.drop 32).any (· != 0)

/-- A block of the grid. -/
def Grid.item (g : Grid) (lin : Nat) (resume : Word) : Item := { grid := g, lin := lin, records := [], task := false, resume := resume }

/-- The seat of a block whose group the unit enters with it. -/
def Grid.seat (g : Grid) (lin : Nat) : Seat :=
  match g.homes.find? (fun e => e.1 == lin / g.group) with
  | some e => .home e.2
  | none => .any

/-- Blocks `from_` to `from_ + n - 1`; those of one cluster group share a cluster (R23). -/
def Grid.roster (g : Grid) (from_ n : Nat) : Roster :=
  (List.range n).map (fun k => (g.item (from_ + k) 0, if k == 0 || (from_ + k) % g.group == 0 then g.seat (from_ + k) else .same))

/-- The members of a grid's gang, in the order of their packets. -/
def State.gangOf (s : State) (g : Grid) : List Grid :=
  match g.gang with
  | none => [g]
  | some k => s.grids.filter (fun h => h.part == g.part && h.gang == some k)

/-- Blocks that are admitted again, those of one cluster group in one cluster (R23, R413). -/
def Grid.rosterAgain (g : Grid) : List (Nat × Word) → Roster
  | [] => []
  | (lin, resume) :: t => (g.item lin resume, g.seat lin) :: g.rosterAgain t

/-- The blocks of the next unit of a grid (R52, R53, R355); none when all are admitted. Blocks that are admitted again come as the
grid's first admission would take them: with their gang, their cooperative grid or their cluster group (R413). -/
def State.nextUnit (s : State) (g : Grid) : Roster :=
  match g.again with
  | (lin, resume) :: t =>
    if g.gang.isSome then (s.gangOf g).flatMap (fun h => h.rosterAgain h.again)
    else if g.coop then g.rosterAgain g.again
    else if g.hasCb then g.rosterAgain ((lin, resume) :: t.takeWhile (fun e => e.1 / g.group == lin / g.group))
    else g.rosterAgain [(lin, resume)]
  | [] =>
    if g.blockCount ≤ g.next then []
    else if g.gang.isSome then (s.gangOf g).flatMap (fun h => h.roster 0 h.blockCount)
    else if g.coop then g.roster 0 g.blockCount
    else g.roster g.next (if g.hasCb then g.group else 1)

/-- The oldest task wave of a grid that waits for admission. -/
def State.nextTasks (s : State) (g : Grid) : Roster :=
  match (s.part? g.part).bind (fun p => p.taskWaves.find? (fun t => t.grid == g.id)) with
  | some t => [({ grid := g, lin := ((t.records.map (fun r => r.id.toNat)).headD 0), records := t.records, task := true, resume := t.resume }, .any)]
  | none => []

/-- The unit that an admission would take: the next blocks, or a task wave. -/
def State.unitOf (s : State) (g : Grid) (task : Bool) : Roster := if task then s.nextTasks g else s.nextUnit g

/-- The grid has had an admission: it is no new grid (R338). -/
def Grid.begun (g : Grid) : Bool := decide (0 < g.next) || ! g.taskPlaced.isEmpty

/-- All blocks of the grid have been admitted (R48); task waves that wait for admission hold nothing back (log 57). -/
def Grid.allAdmitted (g : Grid) : Bool := decide (g.blockCount ≤ g.next)

/-- The wait gate's condition on admission: every block of the grid that opens the generation has been admitted (R48). -/
def State.gateAdmits (s : State) (p : Part) (g : Grid) : Bool :=
  match g.wgate with
  | none => true
  | some r => p.gates.all (fun x => ! (x.gate == r.gate && x.gen == r.gen) || x.isOpen
      || (s.grid? x.opener).all Grid.allAdmitted)

/-- What stands against any admission of the unit, whatever its place: pre-emption, the epoch, OPEN, a WSLOAD hold, the gate
(R338, R354, R355 1-2, R367, R394). `hold` says that a WSLOAD lets no new grid begin. -/
def mayAdmit (s : State) (p : Part) (hold : Bool) (unit : Roster) : Bool :=
  ! p.preempted && ! p.lost && s.begun p && p.budget.isOpen && ! (hold && unit.any (fun i => ! i.1.grid.begun)) && ! unit.isEmpty
    && unit.all (fun i => s.gateAdmits p i.1.grid)

/-- An admission of the grid could proceed now (R345). -/
def canAdmit (s : State) (p : Part) (hold : Bool) (g : Grid) : Bool :=
  [false, true].any (fun task =>
    let unit := s.unitOf g task
    mayAdmit s p hold unit && canPlace p .admission p.clusters s 0 unit)

/-- The clusters of the rotation before a chosen one (R355). -/
def rotationBefore (p : Part) (last chosen : Nat) : List Nat :=
  let n := p.clusterCount
  ((List.range n).map (fun k => p.firstCluster + (last - p.firstCluster + 1 + k) % n)).takeWhile (· != chosen)

/-- A unit with the free seats before its `k`th block in the clusters chosen for them, and that block in cluster `cl`. -/
def seated (unit : Roster) (pls : List Place) (k cl : Nat) : Roster :=
  unit.mapIdx (fun i e => (e.1, if e.2 != .any then e.2 else if i < k then .home ((pls.map Place.cluster).getD i 0)
    else if i = k then .home cl else .any))

/-- A unit goes to the first cluster, or set of clusters, that passes in the rotation after `last`: no block with a free choice could
stand in an earlier cluster, those before it as they are (R355). -/
def firstAfter (s : State) (p : Part) (unit : Roster) (pls : List Place) (last : Nat) : Bool :=
  ((List.range unit.length).zip (unit.zip pls)).all (fun e => e.2.1.2 != .any
    || (rotationBefore p last e.2.2.cluster).all (fun cl => ! canPlace p .admission p.clusters s 0 (seated unit pls e.1 cl)))

/-- The unit follows the rotation after the cluster that its grid used last; for a grid's first admission, the rotation from some
start, which the dispatcher chooses (R355). -/
def inRotation (s : State) (p : Part) (g : Grid) (unit : Roster) (pls : List Place) : Bool :=
  match g.lastCluster with
  | some last => firstAfter s p unit pls last
  | none => p.clusters.any (firstAfter s p unit pls)

/-! ### Co-residency in an idle partition (R332) -/

/-- The state with the partition's clusters idle. -/
def State.idle (s : State) (p : Part) : State :=
  { s with blocks := s.blocks.filter (fun b => ! p.hasCluster b.cluster)
           waves := s.waves.filter (fun w => ! (s.block? w.block).any (fun b => p.hasCluster b.cluster)) }

/-- The blocks could be co-resident in the idle partition, or a group in one idle cluster of it. -/
def coResident (s : State) (p : Part) (unit : Roster) : Bool := canPlace p .idle p.clusters (s.idle p) 0 unit

end Sys2Proof.Machine
end

