-- ==== Sys2Proof/Machine/Launch.lean ====
section
/-! DEFINITION. The LAUNCH packet and the launch record: their checks, and the grid that a launch starts (R24, R57, R86, R121,
R331-R335). -/

namespace Sys2Proof.Machine

/-- Why a packet does not dispatch now: it is held, it is malformed with a reason of R350, or memory cannot be reached. -/
inductive NotNow where
  | hold
  | bad (reason : Nat)
  | reach (e : Reach)
  deriving DecidableEq, Repr

/-- A check of the front end. -/
abbrev Check (α : Type) := Except NotNow α

def badIf (b : Bool) (reason : Nat) : Check Unit := if b then .error (.bad reason) else .ok ()
def holdIf (b : Bool) : Check Unit := if b then .error .hold else .ok ()
def reached {α : Type} (r : Except Reach α) : Check α := r.mapError NotNow.reach

/-! ### Words of a packet or record -/

/-- Word `i` as a number, and a 64-bit field in words `i` and `i + 1`. -/
def word (w : List Word) (i : Nat) : Nat := (w.getD i 0).toNat
def word64 (w : List Word) (i : Nat) : Nat := word w i + 2 ^ 32 * word w (i + 1)

/-- Bits `lo` to `lo + n - 1`. -/
def bits (v lo n : Nat) : Nat := v / 2 ^ lo % 2 ^ n

/-- Words of a byte string. -/
def toWords (bs : List Byte) (n : Nat) : List Word := wordsOf n (bytesToNat bs)

/-- Some word from `a` on, up to and not including `b`, is not zero. -/
def anySet (w : List Word) (a b : Nat) : Bool := ((w.take b).drop a).any (· != 0)

/-! ### The packet (R328, R331) -/

/-- KIND, and the header's reserved bits. -/
def kindOf (w : List Word) : Nat := bits (word w 0) 24 8
def headerReserved (w : List Word) : Bool := bits (word w 0) 16 5 != 0 || bits (word w 0) 0 8 != 0
def hasBar (w : List Word) : Bool := (word w 0).testBit 23

/-- A packet in flight with its completion actions. -/
def flightOf (w : List Word) (index : Word) (work : Work) : Flight :=
  { index := index, work := work, sig := (word w 0).testBit 22, irq := (word w 0).testBit 21, tl := bits (word w 0) 8 8 }

namespace LaunchPacket
def gx (w : List Word) : Nat := bits (word w 3) 0 16
def gy (w : List Word) : Nat := bits (word w 3) 16 16
def gz (w : List Word) : Nat := bits (word w 4) 0 16
def waves (w : List Word) : Nat := bits (word w 4) 16 4 + 1
def group (w : List Word) : Nat := bits (word w 4) 20 6 + 1
def topen (w : List Word) : Bool := (word w 4).testBit 26
def clusters (w : List Word) : Nat := bits (word w 5) 0 8 + 1
def wgate (w : List Word) : Nat := bits (word w 5) 8 6
def ogate (w : List Word) : Nat := bits (word w 5) 14 6
def coop (w : List Word) : Bool := (word w 5).testBit 20
def gang (w : List Word) : Bool := (word w 5).testBit 21
def gangN (w : List Word) : Nat := bits (word w 5) 22 4
def ticket (w : List Word) : Nat := bits (word w 6) 16 16
/-- The valid dispensers: index, X and Y. -/
def dispensers (w : List Word) : List (Nat × Nat × Nat) :=
  (if (word w 6).testBit 4 then [(bits (word w 6) 0 4, bits (word w 7) 0 16, bits (word w 7) 16 16)] else [])
    ++ (if (word w 6).testBit 9 then [(bits (word w 6) 5 4, bits (word w 8) 0 16, bits (word w 8) 16 16)] else [])
def ksize (w : List Word) : Nat := word w 11
def blocks (w : List Word) : Nat := gx w * gy w * gz w

/-- Reserved bits (reason 2). -/
def reserved (w : List Word) : Bool :=
  bits (word w 4) 27 5 != 0 || bits (word w 5) 26 6 != 0 || bits (word w 6) 10 6 != 0 || anySet w 12 16

/-- The launch shape or a dispenser binding is invalid (R331, reason 4). -/
def badShape (p : Part) (w : List Word) : Bool :=
  let ds := dispensers w
  blocks w == 0 || ds.any (fun d => d.2.1 == 0 || d.2.2 == 0) || blocks w % group w != 0
    || decide (Config.clustersPerDomain * p.domains < clusters w) || (ds.map Prod.fst).eraseDups.length != ds.length
    || decide (2 ^ 27 < blocks w * waves w) || decide (65536 < ksize w) || (ksize w == 0 && word64 w 9 != 0)
    || (! (word w 6).testBit 4 && word w 7 != 0) || (! (word w 6).testBit 9 && word w 8 != 0)
end LaunchPacket

/-! ### The launch record (R332) -/

/-- Bytes of the record. -/
def recordBytes : Nat := 0x1A0

namespace LaunchRecord
/-- A claim or allocation word (R332). -/
def amounts (v : Nat) : Amounts :=
  { spm := bits v 0 8, csp := bits v 8 6, acc := bits v 14 7, mxe := bits v 21 2, tag := bits v 23 7 }
def codesz (r : List Word) : Nat := word r 1
def code (r : List Word) : Nat := word64 r 2
def entry (r : List Word) : Nat := word r 4
def creg (r : List Word) : Nat := bits (word r 5) 0 16
def areg (r : List Word) : Nat := bits (word r 5) 16 16
def claim (r : List Word) : Amounts := amounts (word r 6)
def alloc (r : List Word) : Amounts := amounts (word r 7)
def formats (r : List Word) : List Word := (r.drop 8).take 8
/-- The forty halfwords from 0x040. -/
def halves (r : List Word) : List Nat := ((r.drop 16).take 20).flatMap (fun w => [bits w.toNat 0 16, bits w.toNat 16 16])
def counts (r : List Word) : List Nat := (halves r).map (· % 2 ^ 12)
def ranges (r : List Word) : List Range :=
  (List.range 8).map (fun i => { base := BitVec.ofNat 64 (word64 r (36 + 4 * i)), limit := BitVec.ofNat 64 (word64 r (38 + 4 * i)) })
def slots (r : List Word) : List Word := (r.drop 68).take 16
def restart (r : List Word) : Bool := (word r 84).testBit 0
def pipes (r : List Word) : List Word := (r.drop 88).take 16

/-- A descriptor that R86 rejects. -/
def badFormat (d : Word) : Bool :=
  let elem := bits d.toNat 0 8
  let scale := bits d.toNat 8 4
  let blk := bits d.toNat 12 4
  (elem != 0 && ! [1, 2, 3, 4, 5, 6, 7, 8, 10, 11, 13].contains elem) || decide (1 < scale)
    || (scale == 1 && (decide (blk < 4 ∨ 6 < blk) || elem == 1 || elem == 13)) || (scale == 0 && blk != 0) || bits d.toNat 16 16 != 0

/-- What a place holds of each kind that a block claims (R54). -/
def placeMax : Nat → Nat
  | 1 => 128
  | 2 => 32
  | 3 => 64
  | 4 => 2
  | _ => 64

/-- The claims break R57 for `waves` waves; a claim may exceed the limit of some clusters, not of all. -/
def badClaims (s : State) (p : Part) (waves : Nat) (r : List Word) : Bool :=
  let above := fun (kind n : Nat) => p.clusters.all (fun cl => decide ((s.cluster cl).gck.limit.of kind < n))
  creg r % waves != 0 || areg r % waves != 0 || decide (creg r < areg r) || decide (32 < creg r / waves) || above 0 (creg r)
    || [1, 2, 3, 4, 5].any (fun k => decide ((claim r).of k < (alloc r).of k) || decide (placeMax k < (claim r).of k)
      || above k ((claim r).of k))

/-- The record is invalid (reason 3). -/
def bad (s : State) (p : Part) (waves : Nat) (r : List Word) : Bool :=
  word r 0 != 2 ^ 16 || bits (word r 6) 30 2 != 0 || bits (word r 7) 30 2 != 0 || (halves r).any (fun h => decide (2 ^ 12 ≤ h))
    || bits (word r 84) 16 16 != 0 || bits (word r 84) 1 7 != 0 || anySet r 85 88 || (formats r).any badFormat
    || (List.zip (slots r) (pipes r)).any (fun e => slotValid e.1 != (e.2 != 0)) || badClaims s p waves r
end LaunchRecord

/-! ### Gates and dispensers (R45, R333, R334) -/

/-- The newest generation of a gate. -/
def Part.newestGate (p : Part) (gate : Nat) : Option Generation := p.gates.find? (fun x => x.gate == gate)

/-- The gate generation that the launch would start is free to start. -/
def gateFree (p : Part) (gate : Nat) : Bool := gate == 0 || (p.newestGate gate).all (fun x => x.isOpen)

/-- A dispenser is not bound to a grid that has not completed. -/
def dispenserFree (s : State) (p : Part) (n : Nat) : Bool :=
  match (p.dispenser n).grid with
  | none => true
  | some g => (s.grid? g).isNone

/-! ### The grid -/

/-- The grid that a checked packet and record describe. -/
def makeGrid (p : Part) (slot : Nat) (w r : List Word) (kconst : List Byte) (id : Nat) (index : Word) (node gang : Option Nat) : Grid :=
  let og := LaunchPacket.ogate w
  let wg := LaunchPacket.wgate w
  { id := id, part := p.id, krec := word64 w 1, code := LaunchRecord.code r, codesz := LaunchRecord.codesz r,
    entry := LaunchRecord.entry r, claim := LaunchRecord.claim r, alloc := LaunchRecord.alloc r, regClaim := LaunchRecord.creg r,
    regAlloc := LaunchRecord.areg r, formats := LaunchRecord.formats r, counts := LaunchRecord.counts r,
    ranges := LaunchRecord.ranges r, slots := LaunchRecord.slots r, restart := LaunchRecord.restart r, dimX := LaunchPacket.gx w,
    dimY := LaunchPacket.gy w, dimZ := LaunchPacket.gz w, waves := LaunchPacket.waves w, group := LaunchPacket.group w,
    clusters := LaunchPacket.clusters w,
    ogate := if og = 0 then none else some { gate := og, gen := ((p.newestGate og).map (fun x => x.gen + 1)).getD 1 },
    wgate := if wg = 0 then none else (p.newestGate wg).map (fun x => { gate := wg, gen := x.gen }),
    coop := LaunchPacket.coop w || ((LaunchRecord.counts r).drop 32).any (· != 0), gang := gang, ticket := LaunchPacket.ticket w,
    pass := 0, dispensers := (LaunchPacket.dispensers w).map Prod.fst,
    kconst := (kconst.mapIdx (fun i b => (i, b))).filter (fun e => e.2 != 0), ksize := LaunchPacket.ksize w, queue := slot,
    index := index, node := node, next := 0, retired := [], placed := [], taskPlaced := [], opened := [], lastCluster := none, cb := [], gb := [],
    topen := LaunchPacket.topen w, nextTask := 0, again := [], homes := [], inRace := false }

/-- The launch could never be resident (reason 5). -/
def neverResident (s : State) (p : Part) (g : Grid) : Bool :=
  (g.coop && ! coResident s p (g.roster 0 g.blockCount)) || (g.hasCb && ! coResident s p (g.roster 0 g.group))

/-- Enter a grid: its flight, its gate generation and its dispensers (R45, R306, R333, R334). -/
def State.startGrid (s : State) (g : Grid) (w : List Word) : State :=
  let s := { s with grids := s.grids ++ [g] }
  let s := s.onQueue g.part g.queue (fun q => { q with flights := q.flights ++ [flightOf w g.index (.grid g.id)] })
  s.onPart g.part (fun p =>
    let p := (LaunchPacket.dispensers w).foldl (fun p d => p.setDispenser d.1 { grid := some g.id, x := d.2.1, y := d.2.2, i := 0 }) p
    match g.ogate with
    | none => p
    | some r => { p with gates := { gate := r.gate, gen := r.gen, opener := g.id, isOpen := false } ::
                    p.gates.filter (fun x => x.gate != r.gate) })

/-- Check one LAUNCH, and enter its grid (R331-R334); `node` is set for a node of a graph, `gang` for a member of a gang. The
third component is the record's pipe keys. -/
def launchOne (s : State) (part slot : Nat) (w : List Word) (index : Word) (node gang : Option Nat) :
    Check (State × Grid × List Word) := do
  match s.part? part with
  | none => .error .hold
  | some p =>
    badIf (LaunchPacket.reserved w) 2
    badIf (word64 w 1 % 32 != 0 || word64 w 9 % 64 != 0) 10
    badIf (LaunchPacket.badShape p w) 4
    let (rb, s) ← reached (s.feRead p (word64 w 1) recordBytes)
    let r := toWords rb 104
    badIf (LaunchRecord.bad s p (LaunchPacket.waves w) r) 3
    let (kb, s) ← reached (s.feRead p (word64 w 9) (LaunchPacket.ksize w))
    let (id, s) := s.take
    let g := makeGrid p slot w r kb id index node gang
    badIf (neverResident s p g) 5
    holdIf (! gateFree p (LaunchPacket.ogate w))
    holdIf ((LaunchPacket.dispensers w).any (fun d => ! dispenserFree s p d.1))
    .ok (s.startGrid g w, g, LaunchRecord.pipes r)

/-! ### Gangs (R335) -/

/-- Put an endpoint index into a slot entry (R89). -/
def bindSlot (e : Word) (endp : Nat) : Word :=
  BitVec.ofNat 32 (bits e.toNat 28 4 * 2 ^ 28 + endp % 2 ^ 12 * 2 ^ 16 + bits e.toNat 0 16)

/-- Every use of a pipe key in a gang: member, permission and block count. -/
def keyUses (ms : List (Grid × List Word)) (key : Word) : List (Nat × Nat × Nat) :=
  ms.flatMap (fun m => ((List.zip m.1.slots m.2).filter (fun e => e.2 == key)).map (fun e => (m.1.id, slotPerm e.1, m.1.blockCount)))

/-- The pipe keys of a gang, each once. -/
def gangKeys (ms : List (Grid × List Word)) : List Word := ((ms.flatMap Prod.snd).filter (· != 0)).eraseDups

/-- A key joins one send slot of one member to one receive slot of another, with equal block counts. -/
def keyJoins (uses : List (Nat × Nat × Nat)) : Bool :=
  match uses with
  | [a, b] => a.1 != b.1 && ((a.2.1 == 1 && b.2.1 == 2) || (a.2.1 == 2 && b.2.1 == 1)) && a.2.2 == b.2.2
  | _ => false

/-- Endpoint indices that are free, lowest first. -/
def freeEndpoints (p : Part) (n : Nat) : List Nat := ((List.range 4096).filter (fun i => p.endpoints.all (fun e => e.1 != i))).take n

/-- Give the gang's keys their endpoint indices. -/
def bindGang (s : State) (p : Part) (gang : Nat) (ms : List (Grid × List Word)) : Check State := do
  let keys := gangKeys ms
  badIf (keys.any (fun k => ! keyJoins (keyUses ms k))) 6
  let ends := freeEndpoints p keys.length
  holdIf (decide (ends.length < keys.length))
  let endp := fun (key : Word) => ((List.zip keys ends).find? (fun e => e.1 == key)).map Prod.snd
  let s := ms.foldl (fun s m => s.onGrid m.1.id (fun g => { g with slots := (List.zip g.slots m.2).map (fun e =>
    match endp e.2 with | some n => bindSlot e.1 n | none => e.1) })) s
  .ok (s.onPart p.id (fun p => { p with endpoints := p.endpoints ++ ends.map (fun n => (n, gang)) }))

/-- Launch the members of a gang one after another. -/
def launchMembers (part slot gang : Nat) : State → Nat → List (List Word × Word) → Check (State × List (Grid × List Word))
  | s, _, [] => .ok (s, [])
  | s, k, (w, index) :: rest => do
    badIf (kindOf w != 1 || ! LaunchPacket.gang w || (k != 0 && LaunchPacket.gangN w != 0) || LaunchPacket.topen w) 6
    badIf (headerReserved w) 2
    let (s, g, pipes) ← launchOne s part slot w index none (some gang)
    let (s, ms) ← launchMembers part slot gang s (k + 1) rest
    .ok (s, (g, pipes) :: ms)

/-- Launch a whole gang. -/
def launchGang (s : State) (part slot : Nat) (packets : List (List Word × Word)) : Check State := do
  let (gang, s) := s.take
  let (s, ms) ← launchMembers part slot gang s 0 packets
  match s.part? part with
  | none => .error .hold
  | some p => bindGang s p gang ms

end Sys2Proof.Machine
end

