-- ==== Sys2Proof/Machine/Packets.lean ====
section
/-! DEFINITION. What the packets of a ring do at their dispatch (R323, R328-R344), one packet at a time. -/

namespace Sys2Proof.Machine

/-! ### The ring -/

/-- Word `i` of the ring as the front end reads it. -/
def readPacket (s : State) (p : Part) (q : Queue) (index : Word) : Check (List Word × State) := do
  let (bs, s) ← reached (s.feRead p (packetAddr q index) 64)
  .ok (toWords bs 16, s)

/-- The queue dispatches packets at all (R325, R327, R349, R374, R394 step 1). -/
def Queue.serving (s : State) (p : Part) (slot : Nat) : Bool :=
  let q := p.queue slot
  p.served && q.saved.en && q.cfg.seq.toNat % 2 == 0 && q.flag == .ok && ! s.parked (.queue p.id slot)

/-- RDIDX moves past the packet that is dispatched, and a REPEAT counts it (R329, R339). -/
def Queue.advance (q : Queue) : Queue :=
  { q with rdidx := q.rdidx + 1, polled := none, loop := q.loop.map (fun l => { l with left := l.left - 1 }) }

/-- A packet that completes at its dispatch (R329). -/
def doneAtOnce (s : State) (part slot : Nat) (w : List Word) (index : Word) : State :=
  (s.onQueue part slot Queue.advance).actions part (flightOf w index .done)

/-- A packet that stays in flight. -/
def inFlight (s : State) (part slot : Nat) (w : List Word) (index : Word) (work : Work) : State :=
  s.onQueue part slot (fun q => { q.advance with flights := q.flights ++ [flightOf w index work] })

/-! ### NOP, TLWAIT, TLSIG, FENCE and MARK (R340-R342) -/

def nopBody (s : State) (part slot : Nat) (w : List Word) (index : Word) : Check State := do
  badIf (anySet w 1 16) 2
  .ok (doneAtOnce s part slot w index)

/-- The value in words 2 and 3, and the timeline index. -/
def tlValue (w : List Word) : Nat := word64 w 2
def tlIndex (w : List Word) : Nat := bits (word w 1) 0 8

def tlwaitBody (s : State) (p : Part) (slot : Nat) (w : List Word) (index : Word) : Check State := do
  badIf (bits (word w 1) 8 24 != 0 || anySet w 4 16) 2
  holdIf (decide ((p.timeline (tlIndex w)).toNat < tlValue w))
  .ok (doneAtOnce s p.id slot w index)

def tlsigBody (s : State) (p : Part) (slot : Nat) (w : List Word) (index : Word) : Check State := do
  badIf (bits (word w 1) 9 23 != 0 || anySet w 4 16) 2
  let v := BitVec.ofNat 64 (tlValue w)
  let s := if (word w 1).testBit 8 then s.writeTimeline p.id (tlIndex w) v else s.addTimeline p.id (tlIndex w) v
  .ok (doneAtOnce s p.id slot w index)

/-- Every earlier packet has completed, so its blocks' sectors have been written back, and the homes write through (R122). -/
def fenceBody (s : State) (p : Part) (slot : Nat) (w : List Word) (index : Word) : Check State := do
  badIf (bits (word w 1) 2 30 != 0) 2
  .ok (doneAtOnce s p.id slot w index)

def markBody (s : State) (p : Part) (slot : Nat) (w : List Word) (index : Word) : Check State := do
  badIf (word64 w 1 % 8 != 0) 10
  let bs := natToBytes 8 (s.timeOf p) ++ natToBytes 4 (word w 3) ++ natToBytes 4 index.toNat
  let s ← reached (s.feWrite p (word64 w 1) bs)
  .ok (doneAtOnce s p.id slot w index)

/-! ### TASKS (R336) -/

/-- The newest grid of the queue that is still open for TASKS. -/
def openGrid (s : State) (part slot : Nat) : Option Grid :=
  (s.grids.filter (fun g => g.part == part && g.queue == slot && g.topen)).getLast?

/-- Where the next `n` records of a partition stand in its task arena. -/
def feedAddrs (s : State) (p : Part) (n : Nat) : Except Reach (List Nat) :=
  (List.range n).mapM (fun i => feAddr s p p.feDie (arenaAddr p i) false)

/-- Put as many of a TASKS packet's remaining records into the task queue as it has room for; after the last the packet completes. One
whose grid has been killed has nothing left to do (R336, R380). -/
def State.feed (s : State) (p : Part) (slot : Nat) (f : Flight) : State :=
  match f.work with
  | .records g recs =>
    if (s.grid? g).isNone then s.completeFlight p.id slot f
    else
      let now := recs.take (taskRoom - p.queued)
      match feedAddrs s p now.length with
      | .error e => s.feStop p.id slot (BitVec.ofNat 64 (packetAddr (p.queue slot) f.index)) e
      | .ok at_ =>
        let s := (s.touchSpan p p.feDie (arenaAddr p 0) (64 * now.length)).enqueue p.id g (List.zip at_ now)
        let left : Flight := { f with work := .records g (recs.drop now.length) }
        let s := s.onQueue p.id slot (fun q => { q with flights := q.flights.map (fun h => if h = f then left else h) })
        if now.length < recs.length then s else (s.completeFlight p.id slot left).finishGrid g
  | _ => s

/-- A TASKS packet's records can go on: the task queue has room, the packet queue is not parked, and the arena's home and walk are not
waited for. -/
def feedable (s : State) (p : Part) (slot : Nat) (f : Flight) : Bool :=
  p.served && decide (p.queued < taskRoom) && ! s.parked (.queue p.id slot) && (match f.work with
    | .records _ recs => (match feedAddrs s p (recs.take (taskRoom - p.queued)).length with | .error .waiting => false | _ => true)
    | _ => false)

/-- The oldest TASKS packet of a queue whose records wait. -/
def recordsFlight (p : Part) (slot : Nat) : Option Flight :=
  (p.queue slot).flights.find? (fun f => match f.work with | .records .. => true | _ => false)

/-- A TASKS packet dispatches once it is checked, and its records enter the queue as there is room (R329, R336). -/
def tasksBody (s : State) (p : Part) (slot : Nat) (w : List Word) (index : Word) : Check State := do
  badIf (bits (word w 4) 1 31 != 0 || anySet w 5 16) 2
  badIf (word64 w 1 % 64 != 0 || decide (taskRoom < word w 3)) 10
  match openGrid s p.id slot with
  | none => .error (.bad 7)
  | some g =>
    let n := word w 3
    let (bs, s) ← reached (s.feRead p (word64 w 1) (64 * n))
    let recs := (List.range n).map (fun i => toWords ((bs.drop (64 * i)).take 64) 16)
    badIf (recs.any (fun r => word r 0 % 12 != 0 || decide (g.codesz ≤ word r 0))) 10
    let s := if (word w 4).testBit 0 then s.onGrid g.id (fun h => { h with topen := false }) else s
    let s := inFlight s p.id slot w index (.records g.id recs)
    .ok (match s.part? p.id with
      | some p => (match recordsFlight p slot with | some f => s.feed p slot f | none => s)
      | none => s)

/-! ### COPY and WSLOAD (R337, R338) -/

/-- A span reaches the partition's private window or leaves the address space, or a page of it lacks permission; unmapped pages
are left to the engine. The walks count: the state after them (R358, R371). -/
def checkPages (s : State) (p : Part) (va n : Nat) (write : Bool) : Check State := do
  badIf (decide (0 < n ∧ 2 ^ 58 < va + n) || (decide (0 < n) && inPrivate p va n)) 10
  (pagesOf va n).forM (fun a =>
    match feAddr s p p.feDie a write with
    | .error (.denied va) => .error (.reach (.denied va))
    | .error (.uncorrectable a va) => .error (.reach (.uncorrectable a va))
    | _ => .ok ())
  .ok (s.touchSpan p p.feDie va n)

/-- Pieces of a COPY: the sectors of its destination, each written whole and on its own (R147, R164). -/
def packetChunks (dst len : Nat) : Nat := if len = 0 then 0 else (dst + len - 1) / 32 - dst / 32 + 1

/-- A copy that a packet starts. -/
def Copy.ofPacket (kind : CopyKind) (part slot : Nat) (index : Word) (record : List Word) (chunks : Nat) (id : Nat) : Copy :=
  { id := id, kind := kind, part := part, block := 0, wave := 0, tag := 0, record := record, space := .g, scope := .sy,
    left := List.range chunks, pieces := [], ranges := 0, common := 0, rows := 0, stride := 0, rtag := 0, receivers := [], slot := slot,
    index := index, seq := id }

/-- Start a packet's copy; one without bytes completes at once. -/
def startCopy (s : State) (p : Part) (slot : Nat) (w : List Word) (index : Word) (kind : CopyKind) (record : List Word) (chunks : Nat) : State :=
  if chunks = 0 then doneAtOnce s p.id slot w index
  else
    let (id, s) := s.take
    inFlight { s with copies := s.copies ++ [Copy.ofPacket kind p.id slot index record chunks id] } p.id slot w index (.copy id)

def copyBody (s : State) (p : Part) (slot : Nat) (w : List Word) (index : Word) : Check State := do
  badIf (anySet w 6 16) 2
  let src := word64 w 1
  let dst := word64 w 3
  let len := word w 5
  badIf (src % 4 != 0 || dst % 4 != 0 || len % 4 != 0 || decide (src < dst + len ∧ dst < src + len)) 10
  let s ← checkPages s p src len false
  let s ← checkPages s p dst len true
  .ok (startCopy s p slot w index .packet ((w.drop 1).take 5) (packetChunks dst len))

/-- A kernel of the partition is resident: a grid that has begun and is not over, though its tile may have lost power and its
blocks stand in an image; after a module power loss the store is written again before the resume (R129, R338, R392, R393). -/
def kernelResident (s : State) (p : Part) : Bool :=
  ! p.lost && (s.blocks.any (fun b => p.hasCluster b.cluster) || s.grids.any (fun g => g.part == p.id && g.begun))

def wsloadBody (s : State) (p : Part) (slot : Nat) (w : List Word) (index : Word) : Check State := do
  badIf (bits (word w 3) 20 12 != 0 || anySet w 5 16) 2
  let src := word64 w 1
  let len := word w 4
  badIf (len % 4096 != 0 || src % 4 != 0) 10
  badIf (decide (p.wsBytes < word w 3 * 4096 + len)) 12
  let s ← checkPages s p src len false
  holdIf (kernelResident s p)
  .ok (startCopy s p slot w index .wsload [w.getD 1 0, w.getD 2 0, w.getD 3 0, w.getD 4 0] (len / 512))

/-! ### COND (R339) -/

namespace CondPacket
def count (w : List Word) : Nat := bits (word w 5) 8 16
def act (w : List Word) : Nat := bits (word w 5) 4 2
def op (w : List Word) : Nat := bits (word w 5) 0 4
/-- Reserved bits and values. -/
def reserved (w : List Word) : Bool :=
  bits (word w 5) 24 8 != 0 || bits (word w 5) 6 2 != 0 || act w == 3 || decide (6 ≤ op w)
/-- (word and MASK) op VALUE, unsigned. -/
def holds (w : List Word) (v : Nat) : Bool :=
  let a := v &&& word w 4
  let b := word w 3
  match op w with
  | 0 => a == b
  | 1 => a != b
  | 2 => decide (a < b)
  | 3 => decide (a ≤ b)
  | 4 => decide (b < a)
  | _ => decide (b ≤ a)
end CondPacket

/-- Read the word and test it. -/
def condTest (s : State) (p : Part) (w : List Word) : Check (Bool × State) := do
  let (bs, s) ← reached (s.feRead p (word64 w 1) 4)
  .ok (CondPacket.holds w (bytesToNat bs), s)

/-- The form of a COND, its body in the ring, and no COND in a REPEAT's body. -/
def condChecks (s : State) (p : Part) (q : Queue) (w : List Word) (index : Word) : Check Unit := do
  let n := CondPacket.count w
  badIf (CondPacket.reserved w) 2
  badIf (word64 w 1 % 4 != 0) 10
  badIf (CondPacket.act w == 2 && n != 0) 8
  holdIf (decide ((q.wridx - index).toNat < n + 1))
  if CondPacket.act w = 1 then
    (List.range n).forM (fun k => do
      let (b, _) ← readPacket s p q (index + BitVec.ofNat 32 (k + 1))
      badIf (kindOf b == 6) 8)
  else .ok ()

/-- The next `n` packets are consumed without effect, and the COND completes. -/
def skipBody (s : State) (part slot : Nat) (w : List Word) (index : Word) (n : Nat) : State :=
  (s.onQueue part slot (fun q => { q with rdidx := index + 1, polled := none, skip := n, loop := none })).actions part
    (flightOf w index .done)

/-- One evaluation of a REPEAT: true runs its body (again), false consumes it. -/
def repeatEval (s : State) (p : Part) (slot : Nat) (w : List Word) (index : Word) : Check State := do
  let (t, s) ← condTest s p w
  let n := CondPacket.count w
  if t then .ok (s.onQueue p.id slot (fun q =>
    { q with rdidx := index + 1, polled := none, loop := some { index := index, left := n, total := n } }))
  else .ok (skipBody s p.id slot w index n)

def condBody (s : State) (p : Part) (slot : Nat) (q : Queue) (w : List Word) (index : Word) : Check State := do
  condChecks s p q w index
  match CondPacket.act w with
  | 0 => do
    let (t, s) ← condTest s p w
    .ok (skipBody s p.id slot w index (if t then CondPacket.count w else 0))
  | 1 => repeatEval s p slot w index
  | _ => if q.polled.any Prod.snd then .ok (doneAtOnce s p.id slot w index) else .error .hold

/-! ### GRAPH (R343, R344) -/

/-- One node of a table: PRED, successors, whether its LAUNCH sets GANG or TOPEN, and whether a reserved field is not zero. -/
structure Node where
  pred : Nat
  nsucc : Nat
  succ : List Nat
  joined : Bool
  reserved : Bool
  deriving DecidableEq, Repr

def nodeOf (bs : List Byte) : Node :=
  let w := toWords bs 32
  let n := bits (word w 17) 0 16
  { pred := bits (word w 16) 0 16, nsucc := n,
    succ := (List.range (min n 8)).map (fun i => bits (word w (18 + i / 2)) (16 * (i % 2)) 16),
    joined := LaunchPacket.gang w || LaunchPacket.topen w, reserved := anySet w 22 32 }

/-- The nodes of a table. -/
def readNodes (s : State) (p : Part) (table n : Nat) : Check (List Node) :=
  (List.range n).mapM (fun i => do
    let (bs, _) ← reached (s.feRead p (nodeAddr table i) 128)
    .ok (nodeOf bs))

/-- The table is invalid (reason 9). -/
def badTable (nodes : List Node) (sink : Nat) : Bool :=
  decide (nodes.length ≤ sink) || (nodes.mapIdx (fun i n => (i == sink) != (n.nsucc == 0) || decide (8 < n.nsucc)
    || n.succ.any (fun m => decide (nodes.length ≤ m)) || n.joined)).any id
    || (nodes.map Node.pred).sum != (nodes.map Node.nsucc).sum

def graphBody (s : State) (p : Part) (slot : Nat) (w : List Word) (index : Word) : Check State := do
  badIf (anySet w 3 16) 2
  let table := word64 w 1
  badIf (table % 128 != 0) 10
  holdIf (p.graphs.any (fun r => r.table == table))
  let (hb, s) ← reached (s.feRead p table 128)
  let n := bits (word (toWords hb 32) 0) 0 16
  let sink := bits (word (toWords hb 32) 1) 0 16
  badIf (decide (n < 1 ∨ 4096 < n)) 9
  let nodes ← readNodes s p table n
  badIf (anySet (toWords hb 32) 3 32 || nodes.any Node.reserved) 2
  badIf (badTable nodes sink) 9
  let s ← reached ((nodes.mapIdx (fun i n => (i, n))).foldlM (fun s e => writeTable s p.id (nodeAddr table e.1 + 0x42) 2 e.2.pred) s)
  let s ← reached (writeTable s p.id (table + 8) 4 1)
  let ready := ((nodes.mapIdx (fun i n => (i, n))).filter (fun e => e.2.pred == 0)).map Prod.fst
  let r : GraphRun := { table := table, slot := slot, index := index, running := [], ready := ready, owed := [], sink := sink,
                        sinkDone := false, fault := false, marking := false }
  .ok (inFlight (s.onPart p.id (fun p => { p with graphs := p.graphs ++ [r] })) p.id slot w index (.graph table))

/-- Launch the lowest ready node of a run. -/
def launchNode (s : State) (p : Part) (r : GraphRun) : Check State := do
  match r.ready with
  | [] => .error .hold
  | n :: rest =>
    let (bs, s) ← reached (s.feRead p (nodeAddr r.table n) 64)
    let w := toWords bs 16
    badIf (kindOf w != 1 || headerReserved w || LaunchPacket.gang w || LaunchPacket.topen w || LaunchPacket.gangN w != 0) 9
    let (s, _, _) ← launchOne s p.id r.slot w r.index (some n) none
    .ok (s.onRun p.id r.table (fun r => { r with ready := rest, running := r.running ++ [n] }))

/-- A node's LAUNCH is malformed: FAULT, nothing further is launched, and the queue faults (R344, R349). -/
def graphFault (s : State) (p : Part) (r : GraphRun) : State :=
  let s := ((s.onRun p.id r.table (fun r => { r with fault := true, marking := true, ready := [] })).markGraph p.id r.table).onPart p.id
    Part.endFaulted
  s.faultQueue p.id r.slot 9 (packetAddr (p.queue r.slot) r.index)

/-! ### The next packet of a queue -/

/-- What stands next in a queue. -/
inductive Ahead where
  /-- a packet that a COND consumes -/
  | consumed
  /-- the next evaluation of a REPEAT: its COND packet -/
  | again (w : List Word)
  | packet (w : List Word)
  deriving DecidableEq, Repr

/-- Read what stands next; `hold` when nothing does. -/
def ahead (s : State) (p : Part) (slot : Nat) : Check (Ahead × State) := do
  let q := p.queue slot
  holdIf (! Queue.serving s p slot)
  match q.loop with
  | some l =>
    if l.left = 0 then do
      let (w, s) ← readPacket s p q l.index
      .ok (.again w, s)
    else do
      let (w, s) ← readPacket s p q q.rdidx
      .ok (.packet w, s)
  | none => do
    holdIf (q.rdidx == q.wridx)
    if 0 < q.skip then .ok (.consumed, s)
    else do
      let (w, s) ← readPacket s p q q.rdidx
      .ok (.packet w, s)

/-- BAR, TLSIG and FENCE wait until every earlier packet has completed (R329). -/
def waitsForAll (w : List Word) : Bool := hasBar w || kindOf w == 8 || kindOf w == 9

/-- A gang's packets, all of which must be in the ring (R335). -/
def gangPackets (s : State) (p : Part) (q : Queue) (w : List Word) : Check (List (List Word × Word)) := do
  let n := LaunchPacket.gangN w + 1
  holdIf (decide ((q.wridx - q.rdidx).toNat < n))
  (List.range n).mapM (fun i => do
    let index := q.rdidx + BitVec.ofNat 32 i
    let (v, _) ← readPacket s p q index
    .ok (v, index))

/-- A LAUNCH, or a whole gang. -/
def launchBody (s : State) (p : Part) (slot : Nat) (q : Queue) (w : List Word) : Check State := do
  if LaunchPacket.gang w then do
    let ps ← gangPackets s p q w
    holdIf (ps.any (fun e => hasBar e.1) && ! q.flights.isEmpty)
    let s ← launchGang s p.id slot ps
    .ok (s.onQueue p.id slot (fun q => ps.foldl (fun q _ => q.advance) q))
  else do
    badIf (LaunchPacket.gangN w != 0) 6
    let (s, _, _) ← launchOne s p.id slot w q.rdidx none none
    .ok (s.onQueue p.id slot Queue.advance)

/-- Dispatch a packet: header, BAR, then its kind. -/
def packetBody (s : State) (p : Part) (slot : Nat) (w : List Word) : Check State := do
  let q := p.queue slot
  badIf (decide (0x0A < kindOf w)) 1
  badIf (headerReserved w) 2
  holdIf (waitsForAll w && ! q.flights.isEmpty)
  match kindOf w with
  | 0 => nopBody s p.id slot w q.rdidx
  | 1 => launchBody s p slot q w
  | 2 => graphBody s p slot w q.rdidx
  | 3 => tasksBody s p slot w q.rdidx
  | 4 => copyBody s p slot w q.rdidx
  | 5 => wsloadBody s p slot w q.rdidx
  | 6 => condBody s p slot q w q.rdidx
  | 7 => tlwaitBody s p slot w q.rdidx
  | 8 => tlsigBody s p slot w q.rdidx
  | 9 => fenceBody s p slot w q.rdidx
  | _ => markBody s p slot w q.rdidx

/-- The body packets of a REPEAT pass that have not completed. -/
def bodyRunning (q : Queue) (l : Repeat) : Bool :=
  q.flights.any (fun f => decide (1 ≤ (f.index - l.index).toNat ∧ (f.index - l.index).toNat ≤ l.total))

/-- Do what stands next in a queue: the state after it. -/
def serve (s : State) (p : Part) (slot : Nat) : Check (Ahead × State) := do
  let q := p.queue slot
  let (a, s) ← ahead s p slot
  match a with
  | .consumed => .ok (a, s.onQueue p.id slot (fun q => { q.advance with skip := q.skip - 1 }))
  | .again w => do
    let l := q.loop.getD { index := 0, left := 0, total := 0 }
    holdIf (bodyRunning q l || (hasBar w && ! q.flights.isEmpty))
    let s ← repeatEval s p slot w l.index
    .ok (a, s)
  | .packet w => do
    let s ← packetBody s p slot w
    .ok (a, s)

end Sys2Proof.Machine
end

