-- ==== Sys2Proof/Machine/FrontEnd.lean ====
section
/-! DEFINITION. The front end's events: doorbells, commits, the watchdog, stride scheduling, packet dispatch, and the copies of
packets (R322-R350). -/

namespace Sys2Proof.Machine

/-! ### Stride scheduling (R345-R348) -/

/-- Pass `a` is smaller than pass `b`, as signed differences modulo 2^32 (R346). -/
def passLess (a b : Word) : Bool := (a - b).msb

/-- The stride of a ticket (R346). -/
def stride (ticket : Nat) : Word := BitVec.ofNat 32 (2 ^ 20 / ticket)

/-- The greater of a pass and the least pass of those already in the race (R347). -/
def rejoin (own : Word) (others : List Word) : Word :=
  match others with
  | [] => own
  | o :: os => let v := os.foldl (fun m x => if passLess x m then x else m) o
               if passLess own v then v else own

/-- A WSLOAD is next to dispatch in some queue, or runs: no new grid begins (R338). -/
def wsHold (s : State) (p : Part) : Bool :=
  s.copies.any (fun k => k.kind == .wsload && k.part == p.id)
    || p.queues.any (fun e => match ahead s p e.1 with
        | .ok (.packet w, _) => kindOf w == 5
        | _ => false)

/-- What stands next takes no quantum: a LAUNCH outside a gang (R333, R335). -/
def Ahead.isLaunch : Ahead → Bool
  | .packet w => kindOf w == 1 && ! LaunchPacket.gang w
  | _ => false

/-- The launch of a run's next node is held, at a gate, a dispenser or a home without power. -/
def nodeHeld (s : State) (p : Part) (r : GraphRun) : Bool :=
  match launchNode s p r with
  | .error .hold => true
  | .error (.reach .waiting) => true
  | _ => false

/-- The oldest run of a queue that has a ready node whose launch is not held. -/
def readyRun (s : State) (p : Part) (slot : Nat) : Option GraphRun :=
  p.graphs.find? (fun r => r.slot == slot && ! r.ready.isEmpty && ! r.fault && ! nodeHeld s p r)

/-- A queue's graphs launch nodes: a fault of a later packet does not stop them, since the GRAPH has been dispatched (R349; log 32 for a
configuration that is invalid or being written). -/
def Queue.launching (s : State) (p : Part) (slot : Nat) : Bool :=
  let q := p.queue slot
  p.served && q.saved.en && q.cfg.seq.toNat % 2 == 0 && q.flag != .invalid && ! s.parked (.queue p.id slot)

/-- What a queue could use a quantum for: its next packet or a node, and the grids with an admission that could proceed. -/
structure Chances where
  packet : Bool
  node : Bool
  grids : List Nat
  deriving DecidableEq, Repr

def Chances.any (c : Chances) : Bool := c.packet || c.node || ! c.grids.isEmpty

def chances (s : State) (p : Part) (hold : Bool) (slot : Nat) : Chances :=
  { packet := match serve s p slot with | .ok (a, _) => ! a.isLaunch | .error _ => false
    node := Queue.launching s p slot && (match readyRun s p slot with
      | some r => (match launchNode s p r with | .ok _ => true | .error _ => false)
      | none => false)
    grids := ((s.grids.filter (fun g => g.part == p.id && g.queue == slot)).filter (canAdmit s p hold)).map Grid.id }

/-- A table of what each listed queue could use a quantum for. -/
abbrev Race := List (Nat × Chances)

def raceOf (s : State) (p : Part) : Race := let hold := wsHold s p; p.queues.map (fun e => (e.1, chances s p hold e.1))

/-- Queues that have become eligible rejoin, and so do grids within their queue (R347, R348). -/
def State.refresh (s : State) (p : Part) (race : Race) : State :=
  let old := (race.filter (fun e => e.2.any && (p.queue e.1).inRace)).map (fun e => (p.queue e.1).pass)
  let s := race.foldl (fun s e => s.onQueue p.id e.1 (fun q =>
    { q with inRace := e.2.any, pass := if e.2.any && ! q.inRace then rejoin q.pass old else q.pass })) s
  { s with grids := s.grids.map (fun g =>
      match race.find? (fun e => g.part == p.id && e.1 == g.queue) with
      | none => g
      | some e =>
        let peers := (s.grids.filter (fun h => h.part == p.id && h.queue == g.queue && h.inRace && e.2.grids.contains h.id)).map Grid.pass
        let can := e.2.grids.contains g.id
        { g with inRace := can, pass := if can && ! g.inRace then rejoin g.pass peers else g.pass }) }

/-- The queue of the next quantum: the smallest pass among the eligible, ties to the lower slot (R346). -/
def nextQueue (p : Part) (race : Race) : Option Nat :=
  (race.filter (fun e => e.2.any)).foldl (fun m e =>
    match m with
    | none => some e.1
    | some x => if passLess (p.queue e.1).pass (p.queue x).pass then some e.1 else some x) none

/-- What the quantum of a queue serves: in turn where both could use it, starting with the packet (R345). -/
def servesAdmission (q : Queue) (c : Chances) : Bool :=
  ! c.grids.isEmpty && (q.admitTurn || ! (c.packet || c.node))

/-- A quantum of the queue is spent (R345, R346). -/
def State.spend (s : State) (p slot : Nat) (c : Chances) (admission : Bool) : State :=
  s.onQueue p slot (fun q => { q with pass := q.pass + stride q.saved.ticket
                                      admitTurn := if (c.packet || c.node) && ! c.grids.isEmpty then ! admission else q.admitTurn })

/-- Every partition's queues and grids that have become eligible rejoin, and those that no longer are leave: what each step ends with
(R347, R348). -/
def State.rejoinAll (s : State) : State := s.parts.foldl (fun s p => s.refresh p (raceOf s p)) s

/-- What queue `slot` could use the next quantum for, if it has it and uses it as `admission` says. -/
def quantumOf (s : State) (part slot : Nat) (admission : Bool) : Option Chances :=
  match s.part? part with
  | none => none
  | some p =>
    let race := raceOf s p
    match race.find? (fun e => e.1 == slot) with
    | some e => if nextQueue p race == some slot && servesAdmission (p.queue slot) e.2 == admission then some e.2 else none
    | none => none

/-! ### Packet events -/

/-- The index of what stands next: the COND of a REPEAT that is evaluated again, or the packet at RDIDX. -/
def Queue.head (q : Queue) : Word := match q.loop with | some l => if l.left = 0 then l.index else q.rdidx | none => q.rdidx

/-- Address of the packet that stands next. -/
def nextAddr (p : Part) (slot : Nat) : Nat := packetAddr (p.queue slot) (p.queue slot).head

/-- RDIDX at what stands next: a REPEAT that met a fault at its evaluation is read again from its COND (R349). -/
def Queue.rewound (q : Queue) : Queue := { q with rdidx := q.head, loop := q.loop.filter (fun l => l.left != 0) }

/-- What stands next is malformed or cannot be read: the queue faults at it (R349, R350). -/
def State.faultHead (s : State) (part slot reason : Nat) : State :=
  match s.part? part with
  | none => s
  | some p => (s.onQueue part slot Queue.rewound).faultQueue part slot reason (nextAddr p slot)

/-- The front end cannot reach what it needs for what stands next. -/
def State.stopHead (s : State) (part slot : Nat) (e : Reach) : State :=
  match e with
  | .denied _ => (s.feCount part e).faultHead part slot 10
  | .uncorrectable a _ => ((s.feCount part e).noteError (State.placeOfAddr a) a part).faultHead part slot 0x81
  | e => s.feStop part slot 0 e

/-- The event of kind `kind` is the one for what stands next; an unknown KIND is met by the NOP event. -/
def Ahead.matches (a : Ahead) (kind : Nat) : Bool :=
  match a with
  | .consumed => true
  | .again _ => kind == 6
  | .packet w => kindOf w == kind || (kind == 0 && decide (0x0A < kindOf w))

/-- The smallest pass among the queues whose next packet is a LAUNCH that can dispatch (R333). -/
def firstLaunch (s : State) (p : Part) : Option Nat :=
  (p.queues.filter (fun e => match serve s p e.1 with | .ok (a, _) => a.isLaunch | .error _ => false)).foldl (fun m e =>
    match m with
    | none => some e.1
    | some x => if passLess e.2.pass (p.queue x).pass then some e.1 else some x) none

/-- Serve the next packet of a queue if it is its turn. -/
def dispatchNext (s : State) (p : Part) (slot : Nat) (a : Ahead) (s' : State) : State :=
  if a.isLaunch then (if firstLaunch s p == some slot then s' else s)
  else match quantumOf s p.id slot false with
    | none => s
    | some c => s'.spend p.id slot c false

/-- A packet event: what stands next is read, checked, and dispatched when the queue's turn has come (R329, R346, R349). -/
def packetEvent (kind part slot : Nat) (s : State) : Host.Outcome State Fault Refusal :=
  match s.part? part with
  | none => .next s
  | some p =>
    match ahead s p slot with
    | .error (.reach e) => .next (s.stopHead part slot e)
    | .error _ => .next s
    | .ok (a, _) =>
      if ! a.matches kind then .next s
      else match serve s p slot with
        | .error .hold => .next s
        | .error (.bad r) => .next (s.faultHead part slot r)
        | .error (.reach e) => .next (s.stopHead part slot e)
        | .ok (a, s') => .next (dispatchNext s p slot a s')

def execNopPacket (p slot : Nat) (s : State) : Host.Outcome State Fault Refusal := packetEvent 0 p slot s
def execLaunchPacket (p slot : Nat) (s : State) : Host.Outcome State Fault Refusal := packetEvent 1 p slot s
/-- A TASKS event: records of an earlier packet that wait for room first, then what stands next. -/
def execTasksPacket (p slot : Nat) (s : State) : Host.Outcome State Fault Refusal :=
  match (s.part? p).bind (fun q => (recordsFlight q slot).map (fun f => (q, f))) with
  | some (q, f) => if feedable s q slot f then .next (s.feed q slot f) else packetEvent 3 p slot s
  | none => packetEvent 3 p slot s
def execCopyPacket (p slot : Nat) (s : State) : Host.Outcome State Fault Refusal := packetEvent 4 p slot s
def execWsloadPacket (p slot : Nat) (s : State) : Host.Outcome State Fault Refusal := packetEvent 5 p slot s
def execTlwaitPacket (p slot : Nat) (s : State) : Host.Outcome State Fault Refusal := packetEvent 7 p slot s
def execTlsigPacket (p slot : Nat) (s : State) : Host.Outcome State Fault Refusal := packetEvent 8 p slot s
def execFencePacket (p slot : Nat) (s : State) : Host.Outcome State Fault Refusal := packetEvent 9 p slot s
def execMarkPacket (p slot : Nat) (s : State) : Host.Outcome State Fault Refusal := packetEvent 10 p slot s

/-- Launch the next ready node of a run as a quantum of its queue (R344 step 2). -/
def nodeEvent (s : State) (p : Part) (slot : Nat) (r : GraphRun) : State :=
  match launchNode s p r with
  | .error .hold => s
  | .error (.bad _) => graphFault s p r
  | .error (.reach (.denied va)) => graphFault (s.feCount p.id (.denied va)) p r
  | .error (.reach e) => s.feStop p.id slot (runAddr s p.id r) e
  | .ok t =>
    match quantumOf s p.id slot false with
    | none => s
    | some c => t.spend p.id slot c false

/-- A run of the queue that still owes its table a STATUS bit or the counts of completed nodes, and can work on it. -/
def owingRun (s : State) (p : Part) (slot : Nat) : Option GraphRun :=
  p.graphs.find? (fun r => r.slot == slot && (r.marking || ! r.owed.isEmpty) && ! s.parked (.queue p.id slot) && owes s p r)

/-- A GRAPH event: counts owed to a table first, then a ready node, then the GRAPH packet that stands next. -/
def execGraphPacket (p slot : Nat) (s : State) : Host.Outcome State Fault Refusal :=
  match s.part? p with
  | none => .next s
  | some q =>
    match owingRun s q slot with
    | some r => .next (s.payRun p r.table)
    | none => match readyRun s q slot with
      | some r => if Queue.launching s q slot then .next (nodeEvent s q slot r) else packetEvent 2 p slot s
      | none => packetEvent 2 p slot s

/-- The COND with ACT WAIT that stands next in the queue. -/
def waitingCond (s : State) (p : Part) (slot : Nat) : Option (List Word) :=
  match ahead s p slot with
  | .ok (.packet w, _) =>
    if kindOf w == 6 && CondPacket.act w == 2 && ! headerReserved w && ! (hasBar w && ! (p.queue slot).flights.isEmpty) then
      (match condChecks s p (p.queue slot) w (p.queue slot).rdidx with | .ok _ => some w | .error _ => none)
    else none
  | _ => none

/-- Read the word of a waiting COND and note what the test gave. -/
def pollCond (s : State) (p : Part) (slot : Nat) (w : List Word) : State :=
  match condTest s p w with
  | .ok (t, s) => s.onQueue p.id slot (fun q => { q with polled := some (s.module.time, t) })
  | .error (.reach e) => s.stopHead p.id slot e
  | .error _ => s

/-- A COND: one with ACT WAIT reads its word for the first time, then any COND dispatches as its test says (R339). -/
def execCondPacket (p slot : Nat) (s : State) : Host.Outcome State Fault Refusal :=
  match s.part? p with
  | none => .next s
  | some q =>
    match waitingCond s q slot with
    | some w => packetEvent 6 p slot (if (q.queue slot).polled.isNone then pollCond s q slot w else s)
    | none => packetEvent 6 p slot s

/-- 1 µs after its last reading a COND in WAIT reads its word again; a REPEAT whose body has run evaluates again (R339). -/
def execCondReevaluate (p slot : Nat) (s : State) : Host.Outcome State Fault Refusal :=
  match s.part? p with
  | none => .next s
  | some q =>
    match waitingCond s q slot, (q.queue slot).polled with
    | some w, some (t, false) =>
      if s.canReach (t + 1000) then packetEvent 6 p slot (pollCond (s.reach (t + 1000)) q slot w) else .next s
    | _, _ => if (q.queue slot).loop.any (fun l => l.left == 0) then packetEvent 6 p slot s else .next s

/-! ### Doorbells (R322, R323, R325) -/

/-- A write to a doorbell takes effect: malformed beyond the ring of the last commit, otherwise the new WRIDX (R323; log 61 for a
configuration that is invalid). -/
def ringDoorbell (s : State) (p slot : Nat) (wridx : Word) : State :=
  match s.part? p with
  | none => s
  | some q =>
    let k := q.queue slot
    if wridx = k.wridx then s
    else if 2 ^ k.saved.log2n < (wridx - k.rdidx).toNat then s.faultHead p slot 13
    else s.onQueue p slot (fun k => { k with wridx := wridx })

/-- Host writes to BAR0 are discarded until power-on has handed off (R411). -/
def State.hostUp (s : State) : Bool := s.module.boot == 8

def execDoorbellWrite (p slot : Nat) (wridx : Word) (s : State) : Host.Outcome State Fault Refusal :=
  match s.part? p with
  | none => .next s
  | some q =>
    if 64 ≤ slot || ! s.hostUp then .next s
    else if (q.queue slot).cfg.seq.toNat % 2 = 1 then .next (s.onQueue p slot (fun k => { k with doorbell := some wridx }))
    else .next (ringDoorbell s p slot wridx)

/-! ### Commits (R324-R327) -/

/-- The configuration part from its eight words. -/
def configOf (w : List Word) : QueueConfig :=
  { seq := w.getD 0 0, rbase := BitVec.ofNat 64 (word64 w 1), en := (word w 3).testBit 31, log2n := bits (word w 3) 16 5,
    ticket := bits (word w 3) 0 16, owner := w.getD 4 0 }

/-- A commit with EN = 1 that R325 does not accept. -/
def badConfig (w : List Word) : Bool :=
  let c := configOf w
  c.en && (decide (c.log2n < 6 ∨ 20 < c.log2n) || c.ticket == 0 || c.rbase.toNat % 4096 != 0 || bits (word w 3) 21 10 != 0 || anySet w 5 8)

/-- A doorbell write that was kept takes effect after the commit. -/
def releaseDoorbell (s : State) (p slot : Nat) : State :=
  match s.part? p with
  | none => s
  | some q => match (q.queue slot).doorbell with
    | none => s
    | some d => ringDoorbell (s.onQueue p slot (fun k => { k with doorbell := none })) p slot d

/-- EN 1 to 0: what waits at TLWAIT, COND or GRAPH is abandoned, and a graph launches nothing further (R327). -/
def disableQueue (s : State) (p slot : Nat) : State :=
  let s := s.onQueue p slot (fun k => { k with skip := 0, loop := none, polled := none })
  s.onPart p (fun q => Part.endFaulted { q with graphs := q.graphs.map (fun (r : GraphRun) =>
    if r.slot = slot then { r with ready := [], fault := true } else r) })

/-- The pass that a queue takes when it is enabled (R327, R347). -/
def enablePass (s : State) (p : Part) (slot : Nat) : Word :=
  rejoin (p.queue slot).pass (((raceOf s p).filter (fun e => e.2.any && e.1 != slot)).map (fun e => (p.queue e.1).pass))

/-- A valid commit: the whole part is taken, and EN's change acts (R325, R327). -/
def commitQueue (s : State) (p : Part) (slot : Nat) (c : QueueConfig) : State :=
  let old := (p.queue slot).enabled
  let pass := if c.en && ! old then enablePass s p slot else (p.queue slot).pass
  let s := if old && ! c.en then disableQueue s p.id slot else s
  let s := s.onQueue p.id slot (fun k =>
    let k := { k with cfg := c, saved := c, enabled := c.en, pass := pass }
    if c.en && ! old then { k with rdidx := 0, wridx := 0, flag := .ok, skip := 0, loop := none, polled := none }
    else if c.en || k.flag == .invalid then { k with flag := .ok }
    else k)
  releaseDoorbell s p.id slot

def execQcbCommit (p slot : Nat) (cfg : List Word) (s : State) : Host.Outcome State Fault Refusal :=
  match s.part? p with
  | none => .next s
  | some q =>
    let c := configOf cfg
    if 64 ≤ slot then .next s
    else if c.seq.toNat % 2 = 1 then .next (s.onQueue p slot (fun k => { k with cfg := c }))
    else if badConfig cfg then
      .next (releaseDoorbell ((s.onQueue p slot (fun k => { k with cfg := c, saved := c, flag := .invalid })).tell (.queueInvalid p slot)) p slot)
    else .next (commitQueue s q slot c)

/-- The watchdog: every slot with an odd SEQ returns to its committed image (R326). -/
def execCcWatchdogExpire (s : State) : Host.Outcome State Fault Refusal :=
  .next (s.parts.foldl (fun s p => (p.queues.filter (fun e => e.2.cfg.seq.toNat % 2 == 1)).foldl (fun s e =>
    releaseDoorbell (s.onQueue p.id e.1 (fun k => { k with cfg := k.saved })) p.id e.1) s) s)

/-! ### STATE as it reads (R324) -/

/-- The packet at RDIDX cannot dispatch now. While a REPEAT is to be evaluated again, the packet behind it can once the REPEAT is over,
unless SEQ is odd, BAR holds it (the COND has not completed) or it is held for itself (R324, R329). -/
def headHeld (s : State) (p : Part) (slot : Nat) : Bool :=
  let q := p.queue slot
  if q.cfg.seq.toNat % 2 == 0 && q.loop.any (fun l => l.left == 0) then
    match readPacket s p q q.rdidx with
    | .ok (w, s) => waitsForAll w || (match packetBody s p slot w with | .error .hold => true | _ => false)
    | .error _ => false
  else match serve s p slot with | .ok _ => false | .error _ => true

/-- A queue's STATE field. -/
def queueState (s : State) (p : Part) (slot : Nat) : Nat :=
  let q := p.queue slot
  let busy := ! q.flights.isEmpty || q.loop.isSome
  match q.flag with
  | .invalid => 4
  | .faulted => 3
  | .ok =>
    if ! q.saved.en then (if busy then 1 else 0)
    else if q.rdidx != q.wridx && headHeld s p slot then 2
    else if q.rdidx != q.wridx || busy then 1
    else 0

/-! ### The copies of COPY and WSLOAD (R337, R338) -/

/-- A packet's copy cannot go on: its remaining chunks stay unwritten and the queue faults (R349, R376). -/
def abortPacket (s : State) (k : Copy) (reason : Nat) : State :=
  let s := { s with copies := s.copies.filter (fun q => q.id != k.id) }
  let s := s.onQueue k.part k.slot (fun q => { q with flights := q.flights.filter (fun f => f.work != .copy k.id) })
  match s.part? k.part with
  | none => s
  | some p => s.faultQueue k.part k.slot reason (packetAddr (p.queue k.slot) k.index)

/-- What a packet's copy does when it cannot reach a byte (R337, R374). -/
def packetStop (s : State) (k : Copy) (p : Part) (e : Reach) : State :=
  let s := s.touchReach p p.feDie e
  match e with
  | .waiting => s
  | .missing va => s.openFault p.feDie p.id 2 0 0 0 va (.copy k.id)
  | .denied _ => abortPacket s k 10
  | .uncorrectable a _ => abortPacket (s.noteError (State.placeOfAddr a) a p.id) k 0x81

/-- Read source bytes at their homes as an acquire at `.sy`; errors come with the bytes. -/
def fetchPacket (s : State) (p : Part) (va n : Nat) : Except Reach (State × List Moved) := do
  let as_ ← feAddrs s p va n false
  let secs := sectorsOf as_
  let s := secs.foldl (fun s x => s.acquireFlush p outsideCore x .sy) (s.touchSpan p p.feDie va n)
  if secs.any (fun x => ! s.acquired outsideCore x .sy) then .error .waiting
  else .ok (noteSectors s p.id secs, as_.map (fun a => (s.load a, s.isBad a)))

/-- Take a chunk off a packet's copy; with none left its packet completes (R329). -/
def donePacketChunk (s : State) (k : Copy) (c : Nat) : State :=
  let left := k.left.filter (· != c)
  if left.isEmpty then
    { s with copies := s.copies.filter (fun q => q.id != k.id) }.completeWork k.part k.slot (.copy k.id)
  else s.setCopy { k with left := left }

/-- Write one piece of a COPY: a sector of its destination (R147, R164). -/
def packetChunk (s : State) (k : Copy) (p : Part) (c : Nat) : State :=
  let src := word64 k.record 0
  let dst := word64 k.record 2
  let len := word k.record 4
  let lo := max dst ((dst / 32 + c) * 32)
  let n := min (dst + len) ((dst / 32 + c + 1) * 32) - lo
  match fetchPacket s p (src + (lo - dst)) n, feAddrs s p lo n true with
  | .error e, _ => packetStop s k p e
  | _, .error e => packetStop s k p e
  | .ok (s, ms), .ok as_ =>
    match s.feWrite p lo (settleChunk s.draws (as_.map s.load) ms) with
    | .error e => packetStop s k p e
    | .ok s => donePacketChunk ({ s with draws := s.draws + 32 }.countMoved p.id (sectorsOf as_)) k c

/-- The dies that a partition occupies (R126). -/
def Part.dies (p : Part) : List Nat :=
  (List.range Config.dies).filter (fun d => decide (p.start / 4 ≤ d ∧ d ≤ (p.start + p.domains - 1) / 4))

/-- Write bytes at a share address on every die of the partition. -/
def State.writeWs (s : State) (p : Part) (a : Nat) (bs : List Byte) : State :=
  p.dies.foldl (fun s d =>
    let base := d * Config.wsDieSpan + shareBase p + a
    { s with ws := (bs.mapIdx (fun i b => (base + i, b))).foldl (fun m e => Sparse.set 0 m e.1 e.2) s.ws
             wsBad := s.wsBad.filter (fun u => ! (decide (base ≤ u / 8 * 8) && decide (u / 8 * 8 + 8 ≤ base + bs.length))) }) s

/-- Write one chunk of a WSLOAD. -/
def wsChunk (s : State) (k : Copy) (p : Part) (c : Nat) : State :=
  match fetchPacket s p (word64 k.record 0 + 512 * c) 512 with
  | .error e => packetStop s k p e
  | .ok (s, ms) =>
    let at_ := word k.record 2 * 4096 + 512 * c
    let base := (p.dies.headD 0) * Config.wsDieSpan + shareBase p + at_
    let old := (List.range 512).map (fun i => Sparse.get 0 s.ws (base + i))
    donePacketChunk { s.writeWs p at_ (settleChunk s.draws old ms) with draws := s.draws + 512 } k c

/-- The copy engine writes a chunk and sets its chunk bit; a copy that is parked waits (R147, R277, R374). -/
def execCopyChunkWrite (copy chunk : Nat) (s : State) : Host.Outcome State Fault Refusal :=
  match s.copy? copy with
  | none => .next s
  | some k =>
    match s.part? k.part with
    | none => .next s
    | some p =>
      if ! k.left.contains chunk || s.parked (.copy copy) || ! p.served then .next s
      else match k.kind with
        | .packet => .next (packetChunk s k p chunk)
        | .wsload => .next (wsChunk s k p chunk)
        | .load | .store =>
          match s.block? k.block with
          | none => .next s
          | some b => match s.grid? b.grid with
            | none => .next s
            | some g => .next (if k.kind == .load then loadChunk s k p b g chunk else storeChunk s k p b g chunk)
        | .multi | .query => .next s

end Sys2Proof.Machine
end

