-- ==== Sys2Proof/Machine/Dispatcher.lean ====
section
/-! DEFINITION. Admission and retirement (R43, R47-R49, R53, R66, R69, R245, R345-R348, R355). -/

namespace Sys2Proof.Machine

/-! ### Admission (R355) -/

/-- The grid of the queue's next admission: the smallest pass, ties to the grid dispatched earlier and, among the nodes of one
GRAPH, to the lower node (R348). -/
def gridBefore (a b : Grid) : Bool :=
  if a.pass = b.pass then
    (match a.node, b.node with
     | some m, some n => if a.index = b.index then decide (m < n) else decide (a.id < b.id)
     | _, _ => decide (a.id < b.id))
  else passLess a.pass b.pass

def nextGrid (s : State) (c : Chances) : Option Nat :=
  ((s.grids.filter (fun g => c.grids.contains g.id)).foldl (fun m g =>
    match m with
    | none => some g
    | some x => if gridBefore g x then some g else some x) none).map Grid.id

/-- Note the cluster of a cluster group of several blocks (R23). -/
def Grid.settleGroup (g : Grid) (h : List (Nat × Nat)) (lin cl : Nat) : List (Nat × Nat) :=
  if g.group = 1 ∨ h.any (fun e => e.1 == lin / g.group) then h else h ++ [(lin / g.group, cl)]

/-- A grid after one of its units has been admitted. -/
def Grid.admitted (g : Grid) (unit : Roster) (pls : List Place) (task : Bool) : Grid :=
  let mine := (List.zip unit pls).filter (fun e => e.1.1.grid.id == g.id)
  if task then
    { g with
      lastCluster := if mine.isEmpty then g.lastCluster else (mine.getLast?).map (fun e => e.2.cluster)
      taskPlaced := g.taskPlaced ++ mine.map (fun e => (({ grid := g.id, records := e.1.1.records, resume := e.1.1.resume } : TaskWave), e.2.cluster)) }
  else
    { g with
      placed := g.placed ++ mine.map (fun e => (e.1.1.lin, e.2.cluster))
      lastCluster := if mine.isEmpty then g.lastCluster else (mine.getLast?).map (fun e => e.2.cluster)
      homes := mine.foldl (fun h e => g.settleGroup h e.1.1.lin e.2.cluster) g.homes
      next := if g.again.isEmpty && unit.all (fun i => i.1.grid.again.isEmpty) then g.next + mine.length else g.next
      again := g.again.drop mine.length }

/-- The stride of a grid within its queue (R348). -/
def gridStride (p : Part) (g : Grid) : Word := stride (if g.ticket = 0 then (p.queue g.queue).saved.ticket else g.ticket)

/-- Note an admitted unit with its grids, its grid's pass, the clusters' deferred entries (R66) and the gatherer. -/
def noteAdmission (s : State) (p : Part) (g : Grid) (unit : Roster) (pls : List Place) (task : Bool) : State :=
  let s := { s with grids := s.grids.map (fun (h : Grid) =>
    if h.part = g.part then
      let h := h.admitted unit pls task
      if h.id = g.id then { h with pass := h.pass + gridStride p h } else h
    else h) }
  let s := pls.foldl (fun s pl => s.onGck pl.cluster (fun k => { k with fifo := passOver k.fifo })) s
  if task then
    s.onPart p.id (fun p => match p.taskWaves.find? (fun t => t.grid == g.id) with
      | some t => { p with taskWaves := p.taskWaves.erase t }
      | none => p)
  else s

def execAdmitUnit (part grid : Nat) (task : Bool) (places : List Place) (s : State) : Host.Outcome State Fault Refusal :=
  match s.grid? grid with
  | none => .next s
  | some g =>
    if g.part != part then .next s
    else match quantumOf s part g.queue true with
      | none => .next s
      | some c =>
        match s.part? part with
        | some p =>
          let unit := s.unitOf g task
          if nextGrid s c == some grid && mayAdmit s p (wsHold s p) unit && inRotation s p g unit places then
            match placeAll p .admission s 0 unit places with
            | none => .next s
            | some t => .next ((noteAdmission t p g unit places task).spend part g.queue c true)
          else .next s
        | none => .next s

/-! ### Retirement (R49) -/

/-- A copy or a matrix operation that the wave issued is pending. -/
def engineBusy (s : State) (w : Wave) : Bool :=
  s.copies.any (fun k => k.kind != .packet && k.kind != .wsload && k.wave == w.uid)
    || (s.block? w.block).any (fun b => b.ctxs.any (fun e => e.2.op.any (fun o => o.wave == w.uid)))

/-- A delivery into one of the block's tags is pending (R280). -/
def awaitsDelivery (s : State) (b : Block) : Bool :=
  s.allCopies.any (fun k => k.kind == .multi && k.receivers.any (fun r => r.block == b.uid && ! r.left.isEmpty))

/-- A task block is known by its first task identifier. -/
def firstTask (rs : List TaskRecord) : Nat := (rs.map (fun r => r.id.toNat)).headD 0

/-- A block's retirement: its writes are released (R47), its slots close (R302), everything it holds returns (R49), and its grid
counts it (R43, R45). -/
def State.retireBlock (s : State) (b : Block) (g : Grid) (p : Part) : State :=
  let s := (s.closeSlots p.id b).dropBlock b
  if b.task then
    (s.onGrid g.id (fun g => { g with taskPlaced := g.taskPlaced.filter (fun e => firstTask e.1.records != b.lin) })).finishGrid g.id
  else
    let s := s.onGrid g.id (fun g => { g with retired := b.lin :: g.retired, placed := g.placed.filter (fun e => e.1 != b.lin) })
    let s := match s.grid? g.id with
      | some g => if g.ogate.isSome then s.markOpen g b.lin else s
      | none => s
    s.finishGrid g.id

/-- The wave has an error to deliver, of a CPL or of a write-back, or, as the last of its block, one of a wave that has retired or of the
write-back at the retirement (R245, R397; log 60). -/
def retiresBad (s : State) (w : Wave) (b : Block) (p : Part) (last : Bool) : Bool :=
  w.copyError || w.backError
    || last && ((s.wavesOf b.uid).any Wave.backError || s.flushBad p (fun d => d.core == b.coreIndex && (s.wavesOf b.uid).any (fun x => x.uid == d.wave)))

/-- A wave without a live lane whose operations are complete retires, and with the last of them its block (R49); a CHRECV still
pending is withdrawn (R300). The block waits for deliveries to it (R280). An error that the wave still has to take is delivered first:
no lane is left to handle it, so it kills the grid (R245, R378, R397). -/
def execWaveRetire (u : Nat) (s : State) : Host.Outcome State Fault Refusal :=
  match s.wave? u with
  | none => .next s
  | some w =>
    match s.block? w.block with
    | none => .next s
    | some b =>
      match s.grid? b.grid with
      | none => .next s
      | some g =>
        match s.part? g.part with
        | none => .next s
        | some p =>
          if w.retired || ! w.liveLanes.isEmpty || w.pend.any (fun p => p.kind != .receive) || engineBusy s w then .next s
          else
            let last := (s.wavesOf b.uid).all (fun x => x.retired || x.uid == u)
            if retiresBad s w b p last then
              .next (s.killGrid g.id b.lin b.cluster w.waveId
                { cause := Cause.uncorrectable, detail := 0, toff := 0, lanes := 0, addr := 0, word10 := 0 })
            else if last && awaitsDelivery s b then .next s
            else if ! last then .next (s.onWave u (fun w => { w with retired := true, pend := [] }))
            else
              let s' := s.recallDirty p (fun d => d.core == b.coreIndex)
              if s'.dirty.any (fun d => d.core == b.coreIndex) then .next s
              else .next (s'.retireBlock b g p)

end Sys2Proof.Machine
end

