-- ==== Sys2Proof/Machine/Power.lean ====
section
/-! DEFINITION. Budgets, limits, voltage, Noon, slices, time and the vesper windows as events (R51, R55, R127, R128, R177, R212,
R351-R369). -/

namespace Sys2Proof.Machine

/-! ### Voltage (R360-R362) -/

/-- A write to VTGT starts a request; a running one ends as SUPERSEDED (R360, R361). -/
def execVtgtWrite (cl rid mv : Nat) (s : State) : Host.Outcome State Fault Refusal :=
  let s := if (s.cluster cl).volt.pending then s.finishVolt cl .superseded else s
  .next (s.onCluster cl (fun c => { c with volt := c.volt.turned { c.volt with rid := rid % 64, mv := min mv 1023, pending := true } })).settleVolts

/-- The rail reaches min(target, CEIL), at 10 mV/µs, and the request finishes with it (R360). -/
def execVoltageRequestFinish (cl : Nat) (s : State) : Host.Outcome State Fault Refusal :=
  let v := (s.cluster cl).volt
  if ! v.pending then .next s
  else
    let t := s.module.time + (100 * (max v.vnow v.goal - min v.vnow v.goal) - v.part)
    .next (if s.canReach t then (s.reach t).settleVolts else s)

/-! ### Time passes (R51, R177, R360, R364, R366) -/

/-- Every second oscillator edge of the cluster is withheld from its slices (R364, step 3: 8 of every 16). -/
def State.halved (s : State) (cl : Nat) : Bool := decide (3 ≤ (Sparse.get .start s.module.thermal (dieOfCluster cl)).step)

/-- Slice cycles in the next `n` oscillator cycles of a cluster. -/
def State.sliceCycles (s : State) (cl n : Nat) : Nat :=
  let c := (s.cluster cl).clock.toNat
  if s.halved cl then (c + n) / 2 - c / 2 else n

/-- Oscillator cycles until the cluster's slices have had `k` more cycles. -/
def State.oscillatorCycles (s : State) (cl k : Nat) : Nat :=
  if s.halved cl then 2 * k - (s.cluster cl).clock.toNat % 2 else k

/-- `k` slice cycles of a wave: a STALL gap and a YIELD run down (R177, R212). -/
def Wave.ran (k : Nat) (w : Wave) : Wave :=
  { w with stall := w.stall - k
           yielded := w.yielded.bind (fun y => if y.left ≤ k then none else some { y with left := y.left - k }) }

/-- `n` oscillator cycles of a cluster: CLOCK counts them all, and its waves run in slice cycles. -/
def State.cycles (s : State) (cl n : Nat) : State :=
  let k := s.sliceCycles cl n
  let mine := fun (w : Wave) => (s.block? w.block).any (fun b => b.cluster == cl)
  { s.onCluster cl (fun c => { c with clock := c.clock + BitVec.ofNat 64 n }) with
    waves := s.waves.map (fun w => if mine w then w.ran k else w) }

/-- Module time passes and each named cluster's oscillator runs, unless a tick or a period boundary is due before. -/
def State.tick (s : State) (ns : Nat) (cycles : List (Nat × Nat)) : State :=
  if s.canReach (s.module.time + ns) then cycles.foldl (fun s c => s.cycles c.1 c.2) (s.reach (s.module.time + ns)) else s

/-- A STALL gap expires after its slice cycles (R177). -/
def execStallExpire (u : Nat) (s : State) : Host.Outcome State Fault Refusal :=
  match s.wave? u with
  | none => .next s
  | some w => match s.block? w.block with
    | some b => .next (s.cycles b.cluster (s.oscillatorCycles b.cluster w.stall))
    | none => .next s

/-- Sixty-four slice cycles after its YIELD a wave may issue again (R212). -/
def execYieldExpire (u : Nat) (s : State) : Host.Outcome State Fault Refusal :=
  match s.wave? u with
  | none => .next s
  | some w => match w.yielded, s.block? w.block with
    | some y, some b => .next (s.cycles b.cluster (s.oscillatorCycles b.cluster y.left))
    | _, _ => .next s

/-- The next instant after TIME `t` that lies `at_` into a period of 8,000 ns. -/
def nextInstant (t at_ : Nat) : Nat := (t + 8000 - at_) / 8000 * 8000 + at_

/-- A bank enters its window: TIME reaches the next multiple of 8,000 ns (R127). -/
def execVesperWindowStart (p : Nat) (s : State) : Host.Outcome State Fault Refusal :=
  match s.part? p with
  | none => .next s
  | some q =>
    let t := if s.begun q then nextInstant (s.timeOf q) 0 else 0
    .next (if s.canReachTime q t then s.reachTime q t else s)

/-- A window ends 2,000 ns after its start, and reads that waited for the bank may proceed (R127, R128). -/
def execVesperWindowEnd (p : Nat) (s : State) : Host.Outcome State Fault Refusal :=
  match s.part? p with
  | none => .next s
  | some q => .next (if s.canReachTime q (nextInstant (s.timeOf q) 2000) then s.reachTime q (nextInstant (s.timeOf q) 2000) else s)

/-- The one step that module time may take: forward to the system's time, before the first partition has been created (R366). -/
def Module.setForward (m : Module) (ns : Nat) : Module :=
  let t := m.time + ns
  { m with time := t, noonDue := (t / 1000 + 1) * 1000, periodDue := (t / 10000 + 1) * 10000, allow := 1000, hot := [], timeSet := true, offs := 0,
           lock := true }

/-- A servo message: OFFS saturates to sixteen bits, LOCK holds within 20 ns (R353, R368, R369). An offset that OFFS cannot show
sets a module that has had no partition forward (R366; log 5). -/
def execPtpMessage (offs : Int) (s : State) : Host.Outcome State Fault Refusal :=
  let o := max (-32768) (min 32767 offs)
  if offs < -32768 ∧ s.module.timeSet = false then .next (s.setModule (s.module.setForward (-offs).toNat))
  else .next (s.setModule { s.module with offs := o, lock := decide (-20 ≤ o ∧ o ≤ 20) })

/-! ### Budgets (R354, R358) -/

/-- Use over limit `a` is below `b`; a limit of 0 gives an infinite ratio. -/
def ratioLess (a b : Nat × Nat) : Bool :=
  if a.2 = 0 then false else if b.2 = 0 then true else decide (a.1 * b.2 < b.1 * a.2)

/-- The tightest of the three budgets, ties to the lower code. -/
def tightest (clusters hbm power : Nat × Nat) : Nat :=
  let m := if ratioLess clusters hbm then 1 else 0
  let r := if m = 1 then hbm else clusters
  if ratioLess r power then 2 else m

/-- What was measured of a partition. -/
def measureOf (use : List Measure) (p : Nat) : Measure := (use.find? (fun m => m.part == p)).getD { part := p, tokens := 0, watts := 0 }

/-- What was measured of a partition, with the tokens of its own write-backs and copies: a measurement counts what loads, fills and walks
have moved beyond (R354; log 12). -/
def State.measured (s : State) (use : List Measure) (p : Nat) : Measure :=
  let m := measureOf use p
  { m with tokens := m.tokens + Sparse.get 0 s.module.moved p }

/-- The partition block after a period (R354): 25 bits of tokens, 13 bits of watts. -/
def Budget.close (b : Budget) (used : Nat) (m : Measure) : Budget :=
  let hbm := (m.tokens, b.tok)
  let power := (m.watts, b.sus + b.peak)
  { b with hused := min m.tokens 0x1FFFFFF, pused := min m.watts 0x1FFF, isOpen := decide (m.tokens < b.tok ∧ m.watts < b.sus + b.peak),
           tight := tightest (used + 1, b.clus) hbm power }

/-- A period of 10,000 ns ends: ratios, OPEN and TIGHT, and every activity's counter back to zero (R354, R358). -/
def execBudgetPeriodBoundary (use : List Measure) (s : State) : Host.Outcome State Fault Refusal :=
  if s.module.noonDue < s.module.periodDue then .next s
  else
  let s := s.setTime s.module.periodDue
  let s := { s with
    parts := s.parts.map (fun (p : Part) => { p with budget := p.budget.close (s.clustersUsed p) (s.measured use p.id), debugUsed := 0 })
    clusters := s.clusters.map (fun (e : Nat × Cluster) => (e.1, { e.2 with wbUsed := 0, svUsed := 0 })) }
  .next (s.setModule { s.module with scrubbed := [], walked := [], moved := [], periodDue := s.module.periodDue + 10000 }).sendKills

/-- Patrol scrub checks error units within the die's budget; one that cannot be corrected stays, and is reported (R358, R399,
R412). -/
def execPatrolScrub (die : Nat) (units : List Nat) (s : State) : Host.Outcome State Fault Refusal :=
  let used := Sparse.get 0 s.module.scrubbed die
  if s.module.activity.sc < used + units.length then .next s
  else
    let s := s.setModule { s.module with scrubbed := Sparse.set 0 s.module.scrubbed die (used + units.length) }
    .next ((units.filter s.isBad).foldl (fun s u =>
      s.noteError (State.placeOfAddr u) u (((s.parts.find? (fun p => p.dies.contains die)).map Part.id).getD 0)) s)

/-! ### Limits (R55, R351, R356) -/

def execRblWrite (cl value : Nat) (s : State) : Host.Outcome State Fault Refusal :=
  .next (s.onCluster cl (fun c => { c with rbl := min value 64 }))

/-- A limit component is written: at once, or as the current allocation where that is greater (R55). -/
def execGckLimitWrite (cl kind value : Nat) (s : State) : Host.Outcome State Fault Refusal :=
  if ! [0, 1, 3, 4, 5].contains kind then .next s
  else
    let v := min value (Limits.full.of kind)
    let held := (s.allocated cl).getD (limitIndex kind) 0
    .next (s.onGck cl (fun g => { g with written := g.written.put kind v, limit := g.limit.put kind (max v held) }))

/-! ### Slices (R357) -/

/-- A resident wave of the cluster stands in the slice. -/
def sliceHeld (s : State) (cl slice : Nat) : Bool :=
  (s.clusterWaves cl).any (fun w => w.slice == slice)

/-- The CC gates a slice without a resident wave; slice 0 hosts the service warp. -/
def execSliceGate (cl slice : Nat) (s : State) : Host.Outcome State Fault Refusal :=
  if slice = 0 ∨ 16 ≤ slice ∨ sliceHeld s cl slice = true then .next s
  else .next (s.onCluster cl (fun c => { c with gated := if c.gated.contains slice then c.gated else slice :: c.gated }))

def execSliceWake (cl slice : Nat) (s : State) : Host.Outcome State Fault Refusal :=
  .next (s.onCluster cl (fun c => { c with gated := c.gated.filter (· != slice) }))

/-! ### Noon (R359) -/

/-- The intervals above 3,600 W of the 10 ms that end at `time`, by their ends, with the one that ends now. -/
def hotAfter (time : Nat) (hot : List Nat) (pmod : Nat) : List Nat :=
  ((if 3600 < pmod then [time] else []) ++ hot).filter (fun t => decide (time < t + 10000000))

/-- µs above 3,600 W still allowed in the window of 10 ms that ends now, whichever it is: 1,000 less those it has had. -/
def allowAfter (time : Nat) (hot : List Nat) (pmod : Nat) : Nat := 1000 - (hotAfter time hot pmod).length

/-- Peaks of the partitions with the numbers `ids`, in that order, within `room` watts together. -/
def grantPeaks (parts : List Part) (room : Nat) : List Nat → Nat → Nat
  | [], _ => 0
  | i :: ids, p =>
    let g := min ((parts.filter (fun q => q.id == i)).map (fun q => q.budget.req)).sum room
    if i = p then g else grantPeaks parts (room - g) ids p

/-- A partition with another PEAK. -/
def Part.withPeak (p : Part) (w : Nat) : Part := { p with budget := { p.budget with peak := w } }

/-- The partitions after Noon has granted peaks, in ascending partition order, or withdrawn them. -/
def noonPeaks (parts : List Part) (allow : Nat) : List Part :=
  let sus := (parts.map (fun p => p.budget.sus)).sum
  if allow ≤ 100 ∨ 3600 < sus then parts.map (fun p => p.withPeak 0)
  else if 200 ≤ allow then parts.map (fun p => p.withPeak (grantPeaks parts (4400 - sus) (List.range 16) p.id))
  else parts

/-- Whether Noon lowers a partition's ceilings (R359): from the trigger on, until its power is within its limit. -/
def throttles (trigger : Bool) (b : Budget) (watts : Nat) : Bool :=
  decide (b.sus + b.peak < watts) && (trigger || b.throttled)

/-- Noon's ceiling of a cluster moves by 10 mV. -/
def noonMove (v : Voltage) (lower rise : Bool) : Voltage :=
  if lower then v.turned { v with noon := max 450 (v.noon - 10) } else if rise then v.turned { v with noon := min 780 (v.noon + 10) } else v

/-- Move the ceilings of one partition's clusters. -/
def State.noonPart (s : State) (p : Part) (trigger : Bool) (watts : Nat) : State :=
  let limit := p.budget.sus + p.budget.peak
  let lower := throttles trigger p.budget watts
  let rise := decide (100 * watts < 95 * limit)
  let s := s.onPart p.id (fun p => { p with budget := { p.budget with throttled := lower } })
  p.clusters.foldl (fun s cl => s.onCluster cl (fun c => { c with volt := noonMove c.volt lower rise })) s

/-- The microsecond ends for which Noon is due (R359). -/
def execNoonTick (pmod : Nat) (use : List Measure) (s : State) : Host.Outcome State Fault Refusal :=
  if s.module.periodDue < s.module.noonDue then .next s
  else
  let s := s.setTime s.module.noonDue
  let allow := allowAfter s.module.time s.module.hot pmod
  let s := { s with parts := noonPeaks s.parts allow }
  let peaks := s.parts.any (fun p => p.budget.peak != 0)
  let s := s.setModule { s.module with pmod := min pmod 0x1FFF, allow := allow, hot := hotAfter s.module.time s.module.hot pmod, pkon := peaks, noonDue := s.module.noonDue + 1000 }
  let trigger := decide (4300 ≤ pmod) || (decide (3600 < pmod) && ! peaks)
  .next (s.parts.foldl (fun s p => s.noonPart p trigger (measureOf use p.id).watts) s).settleVolts

end Sys2Proof.Machine
end

