-- ==== Sys2Proof/Machine/Returns.lean ====
section
/-! DEFINITION. What completes the operations of waves: data and replies that return, stores that reach their place, the service
warp, evictions, write-backs and promotion flushes (R122-R125, R142-R149, R237-R250). An event that cannot happen in the state
leaves it as it is. -/

namespace Sys2Proof.Machine

/-- An operation of a wave with everything around it. -/
structure Flying where
  wave : Wave
  block : Block
  grid : Grid
  part : Part
  pend : Pend
  deriving DecidableEq, Repr

/-- Find operation `op` of wave `u`. -/
def State.flying? (s : State) (u op : Nat) : Option Flying :=
  match s.wave? u with
  | none => none
  | some w =>
    match s.block? w.block, w.pend? op with
    | some b, some p =>
      match s.grid? b.grid with
      | none => none
      | some g => (s.part? g.part).map (fun q => { wave := w, block := b, grid := g, part := q, pend := p })
    | _, _ => none

/-- An earlier operation of the wave has still to touch one of these sectors (R241). -/
def Flying.blocked (f : Flying) (spc : List Spot) : Bool :=
  f.wave.pend.any (fun q => decide (q.id < f.pend.id) && meet q.spots spc)

/-- The operation's addresses are physical ones: not an offset, nor a share address of the weight store. -/
def Flying.global (f : Flying) : Bool := isGlobal f.pend.space && f.pend.kind != .loadWs

/-- The sectors of one access of the operation. -/
def Flying.spotsOf (f : Flying) (a : Access) : List Spot :=
  if f.pend.kind = .loadWs then [] else spots f.pend.space a.owner a.addr f.pend.size

/-! ### Load data (R123, R124, R237) -/

/-- One byte as a load of the core reads it, and whether it is poisoned (R83, R123, R397). -/
def loadByte (s : State) (f : Flying) (owner a : Nat) : Byte × Bool :=
  match f.pend.kind, f.pend.space with
  | .loadWs, _ =>
    let die := dieOfCluster f.block.cluster
    let at_ := shareBase f.part + a
    let bad := s.wsBad.any (fun u => u / 8 == (die * Config.wsDieSpan + at_) / 8)
    (if bad then Config.freeByte (s.draws + a) else s.wsByte die at_, bad)
  | _, .sp => spadByte s false owner a
  | _, .csp => spadByte s true owner a
  | _, .k => (Sparse.get 0 f.grid.kconst a, false)
  | _, .pv => (s.viewByte f.block.coreIndex a, s.viewBad f.block.coreIndex a)
  | _, .g => globalByte s f.block.coreIndex a

/-- What lane `a.lane` of a load receives: its bits, extended by the type, and its poison. -/
def loadValue (s : State) (f : Flying) (a : Access) : Result :=
  let bs := (accessAddrs f.pend.space a.addr f.pend.size).map (loadByte s f a.owner)
  let v := bytesToNat (bs.map Prod.fst)
  let n := 8 * f.pend.size
  { val := if f.pend.signed then (signed n v % (2 ^ 32 : Nat)).toNat else v, pz := bs.any Prod.snd }

/-- A uniform access fills its S register; other accesses fill their lane unless it has exited (R211). -/
def Wave.fill (w : Wave) (d : Operand) (size lane : Nat) (r : Result) : Wave :=
  let regs := (size + 3) / 4
  match d with
  | .v n => if w.isLive lane then w.putV n regs lane r else w
  | .s n => w.putS n regs r
  | _ => w

/-- Whether a weight-store access reaches a bank in its window (R128). -/
def windowHolds (s : State) (f : Flying) (a : Nat) : Bool := f.pend.kind == .loadWs && inWindow (s.timeOf f.part) (wsBank a)

/-- The homes of an access have power (R125). -/
def homesUp (s : State) (f : Flying) (a : Access) : Bool :=
  ! f.global || (accessAddrs f.pend.space a.addr f.pend.size).all (s.homeUp f.part)

/-- Physical sectors of a global access. -/
def accessSectors (f : Flying) (a : Access) : List Nat :=
  if f.global then sectorsOf (accessAddrs f.pend.space a.addr f.pend.size) else []

/-- The sectors of a global access, each with a virtual address in it. -/
def accessSpans (f : Flying) (a : Access) : List (Nat × Nat) :=
  (accessSectors f a).map (fun x => (x, (a.va + (32 * x - a.addr)) / 32 * 32))

/-- The acquire of a load: what R124 and R142 flush first. -/
def acquireFirst (s : State) (f : Flying) (scope : Scope) (sectors : List Nat) : State :=
  sectors.foldl (fun s x => s.acquireFlush f.part f.block.coreIndex x scope) s

/-- The lanes whose data return together: those of the mask, and those that share a sector with them (R239). -/
def returning (f : Flying) (mask : BitVec 32) : List Access :=
  let first := f.pend.left.filter (fun a => mask.getLsbD a.lane)
  let sp := first.flatMap f.spotsOf
  f.pend.left.filter (fun a => mask.getLsbD a.lane || meet (f.spotsOf a) sp)

/-- Take accesses off an operation; with none left it completes (R91, R92). -/
def Wave.performed (w : Wave) (op : Nat) (gone : List Access) : Wave :=
  match w.pend? op with
  | none => w
  | some p =>
    let p := { p with left := p.left.filter (fun a => ! gone.contains a) }
    let w := w.setPend p
    if p.left.isEmpty then w.complete op else w

/-- What a read of the class may later be made to acquire: the releases on its sectors, and, at `.cl` or wider, itself (R143, R144). -/
def seenBy (s : State) (f : Flying) (cls : Nat) (spans : List (Nat × Nat)) : List Seen :=
  (spans.map (fun x => ({ cls := cls, rank := f.pend.rank, lanes := f.pend.lanes, waited := false, scope := f.pend.scope, va := x.2,
                          marks := s.marksOn f.block.coreIndex x.1 } : Seen))).filter
    (fun e => ! e.marks.isEmpty || f.pend.scope.wideCl)

/-- Keep them with the wave, each once. -/
def Wave.see (w : Wave) (es : List Seen) : Wave := { w with seen := w.seen ++ es.filter (fun e => ! w.seen.contains e) }

/-- A store or copy has left sectors dirty in its core's L1: a WAITCNT may release them (R144). -/
def Wave.leave (w : Wave) (f : Flying) (secs : List Nat) : Wave :=
  match f.pend.cls with
  | some k =>
    if f.pend.space != .g || f.pend.scope.wideCl then w
    else
      let es := secs.map (fun x => ({ cls := k, rank := f.pend.rank, scope := f.pend.scope, sector := x } : Unawaited))
      { w with wrote := w.wrote ++ es.filter (fun e => ! w.wrote.contains e) }
  | none => w

/-- Report the uncorrected errors that a read met, at their place (R397, R399). -/
def noteReads (s : State) (f : Flying) (as_ : List Access) : State :=
  let secs := (as_.flatMap (accessSectors f)).eraseDups
  let s := noteL1 (noteSectors s f.part.id secs) f.part.id f.block.coreIndex secs
  match f.pend.kind, f.pend.space with
  | .loadWs, _ => as_.foldl (fun s a =>
      let w := dieOfCluster f.block.cluster * Config.wsDieSpan + shareBase f.part + a.addr
      if (List.range f.pend.size).any (fun i => s.wsBad.any (fun u => u / 8 == (w + i) / 8)) then s.noteError 1 w f.part.id else s) s
  | _, .sp => as_.foldl (fun s a => noteSpad s f.part.id false a.owner a.addr f.pend.size) s
  | _, .csp => as_.foldl (fun s a => noteSpad s f.part.id true a.owner a.addr f.pend.size) s
  | _, _ => s

def execLoadDataReturn (u op : Nat) (mask : BitVec 32) (s : State) : Host.Outcome State Fault Refusal :=
  match s.flying? u op with
  | none => .next s
  | some f =>
    let as_ := returning f mask
    let acq := f.pend.order == .acq
    let spans := (as_.flatMap (accessSpans f)).eraseDups
    let secs := (spans.map Prod.fst).eraseDups
    if (f.pend.kind != .load && f.pend.kind != .loadWs) || as_.isEmpty || f.blocked (as_.flatMap f.spotsOf)
        || as_.any (fun a => windowHolds s f a.addr || ! homesUp s f a) then .next s
    else
      let s' := if acq && f.pend.space == .g then acquireFirst s f f.pend.scope secs else s
      let s' := if acq && f.pend.scope.wideCl then s'.discard f.block.coreIndex else s'
      if acq && f.pend.space == .g && secs.any (fun x => ! s'.acquired f.block.coreIndex x f.pend.scope) then .next s
      else
        let rs := as_.map (fun a => (a.lane, loadValue s' f a))
        let s' := noteReads s' f as_
        let es := if f.global && f.pend.space == .g then seenBy s' f 0 spans else []
        let s' := spans.foldl (fun s x => if s.elsewhere f.block.coreIndex x.1 then s else s.keepClean f.block.coreIndex x.1 x.2) s'
        let s' := if acq && f.pend.scope.wideCl then s'.discard f.block.coreIndex else s'
        .next (s'.onWave u (fun w =>
          ((rs.foldl (fun w r => w.fill f.pend.dst f.pend.size r.1 r.2) w).performed op as_).see es))

/-! ### Stores (R122, R142-R144, R238-R240) -/

/-- The release marks that a store leaves with its sector: its own order's, and those that earlier fences have left with one of its lanes
and whose mask it lies inside (R143, R253). -/
def storeMarks (f : Flying) (a : Access) (seq : Nat) : List ReleaseMark :=
  (if f.pend.order == .rel then [{ seq := seq, scope := f.pend.scope, inside := none, only := none }] else [])
    ++ (f.wave.marks.filter (fun m => (m.lanes &&& f.pend.lanesOf a) != 0 && decide (m.after ≤ f.pend.id) && (match m.inside with
        | none => true
        | some rs => rs.any (fun r => r.overlaps a.va f.pend.size)))).map
      (fun m => { seq := seq, scope := m.scope, inside := m.inside, only := m.only })

/-- Perform one lane of a store. -/
def storeLane (s : State) (f : Flying) (seq : Nat) (a : Access) : State :=
  match f.pend.space with
  | .sp => s.writeSp false a.owner a.addr a.data
  | .csp => s.writeSp true a.owner a.addr a.data
  | .k => s
  | .g | .pv =>
    let cells := List.zip (accessAddrs f.pend.space a.addr f.pend.size) a.data
    let s := s.dirtyBytes f.block.coreIndex f.wave.uid seq (cells.map (fun b => (b.1, a.va + (b.1 - a.addr), b.2)))
    if f.pend.space = .g then (storeMarks f a seq).foldl (fun s m => s.markRelease f.block.coreIndex (a.addr / 32) m) s else s

/-- Write back the sectors that an operation dirtied, at `.cl` or wider (R122). -/
def publish (s : State) (f : Flying) (scope : Scope) (secs : List Nat) : State :=
  if scope.wideCl then s.flush f.part (fun d => d.core == f.block.coreIndex && secs.contains d.sector) else s

/-- The write-backs of an operation meet an error (R397). -/
def publishBad (s : State) (f : Flying) (scope : Scope) (secs : List Nat) : Bool :=
  scope.wideCl && s.flushBad f.part (fun d => d.core == f.block.coreIndex && secs.contains d.sector)

/-- The wave of an operation whose write-backs met an error takes the fault (R397). -/
def State.faultIf (s : State) (bad : Bool) (u : Nat) : State := if bad then s.raiseAtHead u else s

/-- Every dirty sector of the core is written back first, by a release at `.cl` or wider (R240). -/
def releaseFirst (s : State) (f : Flying) : State :=
  if f.pend.scope.wideCl then s.flush f.part (fun d => d.core == f.block.coreIndex) else s

def execStoreComplete (u op : Nat) (s : State) : Host.Outcome State Fault Refusal :=
  match s.flying? u op with
  | none => .next s
  | some f =>
    let rel := f.pend.order == .rel
    let secs := (f.pend.left.flatMap (accessSectors f)).eraseDups
    if f.pend.kind != .store || f.blocked (f.pend.left.flatMap f.spotsOf) || (rel && unperformed f.wave f.pend.lanes f.pend.id)
        || f.pend.left.any (fun a => ! homesUp s f a) then .next s
    else
      let early := rel && f.pend.scope.wideCl && s.flushBad f.part (fun d => d.core == f.block.coreIndex)
      let s' := if rel then releaseFirst s f else s
      if rel && f.pend.scope.wideCl && s'.dirty.any (fun d => d.core == f.block.coreIndex) then .next s
      else
        let (seq, s') := s'.take
        let s' := f.pend.left.foldl (fun s a => storeLane s f seq a) s'
        .next (((publish s' f f.pend.scope secs).onWave u (fun w => (w.performed op f.pend.left).leave f secs)).faultIf
          (early || publishBad s' f f.pend.scope secs) u)

/-! ### Per-lane copies (R244, R245) -/

/-- The source bytes of one lane, with their errors; dirty sectors elsewhere have been recalled. -/
def copySource (s : State) (f : Flying) (a : Access) : List Byte × Bool :=
  let g : Flying := { f with pend := { f.pend with space := f.pend.sspace, kind := .load } }
  let bs := (accessAddrs f.pend.sspace a.src f.pend.size).map (loadByte s g a.sown)
  (bs.map Prod.fst, bs.any Prod.snd)

def execCplCopyComplete (u op : Nat) (s : State) : Host.Outcome State Fault Refusal :=
  match s.flying? u op with
  | none => .next s
  | some f =>
    let g : Flying := { f with pend := { f.pend with space := f.pend.sspace } }
    let srcs := f.pend.left.map (fun a => { a with addr := a.src })
    let ssecs := (srcs.flatMap (accessSectors g)).eraseDups
    let dsecs := (f.pend.left.flatMap (accessSectors f)).eraseDups
    if f.pend.kind != .copy || f.blocked f.pend.spots || srcs.any (fun a => ! homesUp s g a)
        || f.pend.left.any (fun a => ! homesUp s f a) then .next s
    else
      let s' := if f.pend.sspace = .g then ssecs.foldl (fun s x => s.recallFrom f.part f.block.coreIndex x) s else s
      if f.pend.sspace = .g && ssecs.any (s'.elsewhere f.block.coreIndex) then .next s else
      let data := f.pend.left.map (fun a => (a, copySource s' f a))
      let failed := data.any (fun d => d.2.2)
      let s' := noteReads s' g srcs
      let (seq, s') := s'.take
      let s' := (data.filter (fun d => ! d.2.2)).foldl (fun s d => storeLane s f seq { d.1 with data := d.2.1 }) s'
      .next (((publish s' f f.pend.scope dsecs).onWave u (fun w =>
        { (w.performed op f.pend.left).leave f dsecs with copyError := w.copyError || failed })).faultIf
          (publishBad s' f f.pend.scope dsecs) u)

/-! ### The service warp (R145, R248, R251, R358) -/

/-- The first request of its home that is not performed. -/
def isFirstAtHome (s : State) (r : Request) : Bool :=
  (s.requests.find? (fun q => q.home == r.home && ! q.performed)).any (fun q => q.id == r.id)

/-- Perform one lane of a request at the home; the old value and whether its unit was uncorrectable. -/
def performLane (s : State) (r : Request) (a : Access) : State × (Nat × DWord × Bool) :=
  let n := 8 * r.size
  let old := bytesToNat (s.loadBytes a.addr r.size)
  let bad := (List.range r.size).any (fun i => s.isBad (a.addr + i))
  let new := atomicNew r.alu n r.signed old (a.b.toNat % 2 ^ n) (a.c.toNat % 2 ^ n)
  (s.writeBytes a.addr (natToBytes r.size new), (a.lane, BitVec.ofNat 64 old, bad))

/-- Perform the lanes of a request one after another (R248). -/
def performLanes (r : Request) : State → List Access → State × List (Nat × DWord × Bool)
  | s, [] => (s, [])
  | s, a :: t =>
    let (s, o) := performLane s r a
    let (s, os) := performLanes r s t
    (s, o :: os)

/-- An atomic's release stays with the home as the mark of its location (R142, R250). -/
def noteAtomicRelease (s : State) (r : Request) : State :=
  if r.order == .rel || r.order == .ar then
    let (seq, s) := s.take
    let marks := (sectorsOf (r.accesses.map Access.addr)).map (fun x =>
      ({ core := r.core, sector := x, releases := [{ seq := seq, scope := r.scope, inside := none, only := none }] } : HomeMark))
    { s with homeMarks := marks ++ s.homeMarks }
  else s

/-- The closed images of a cluster note that a request of one of their waves has been answered (R149). -/
def Image.note (i : Image) (r : Request) : Image :=
  if i.complete && i.waves.any (fun w => w.uid == r.wave && w.pend.any (fun p => p.id == r.op)) then { i with answered := i.answered ++ [r] } else i

def State.noteAnswer (s : State) (r : Request) : State :=
  s.onCluster (r.core / Config.coresPerCluster) (fun c =>
    { c with imageA := c.imageA.map (fun i => i.note r), imageB := c.imageB.map (fun i => i.note r) })

/-- Tell the wave, where it is resident, that accesses of an operation have been performed. -/
def Wave.lose (w : Wave) (op : Nat) (gone : List Access) : Wave :=
  match w.pend? op with
  | some p => w.setPend { p with left := p.left.filter (fun a => ! gone.contains a) }
  | none => w

/-- The wave number of a request whose wave no longer knows it, after a fallback restore (R133). -/
def orphanWave : Nat := 2 ^ 64

/-- The wave of a request is resident. -/
def State.answerable (s : State) (r : Request) : Bool := (s.flying? r.wave r.op).isSome

/-- The request's wave has an earlier load of one of its sectors still to perform (R140, R241). -/
def behindLoads (s : State) (r : Request) : Bool :=
  (s.flying? r.wave r.op).any (fun f => f.wave.pend.any (fun q => decide (q.id < r.op) && q.isLoad
    && meet q.spots (r.accesses.flatMap (fun a => spots .g 0 a.addr r.size))))

/-- The address of a lane of a request. -/
def Request.addrOf (r : Request) (lane : Nat) : Nat := ((r.accesses.find? (fun a => a.lane == lane)).map Access.addr).getD 0

/-- Perform a request at its home (R145, R248, R249): the replies wait; a reduction is over at once where its wave is
resident. -/
def performRequest (s : State) (r : Request) (p : Part) : State :=
  let secs := sectorsOf (r.accesses.map Access.addr)
  let acq := r.order == .acq || r.order == .ar
  let s' := if acq then secs.foldl (fun s x => s.acquireFlush p r.core x r.scope) s else s
  let s' := secs.foldl (fun s x => s.recallDirty p (fun d => d.sector == x)) s'
  if s'.dirty.any (fun d => secs.contains d.sector) || (acq && secs.any (fun x => ! s'.acquired r.core x r.scope)) || behindLoads s r then s
  else
    let (s', olds) := performLanes r s' r.accesses
    let s' := noteAtomicRelease s' r
    let s' := s'.dropClean (fun k => k.core == r.core && secs.contains k.sector)
    let s' := s'.onCluster r.home (fun c => { c with svUsed := c.svUsed + r.accesses.length })
    let s' := olds.foldl (fun s o => if o.2.2 then s.noteError (State.placeOfAddr (r.addrOf o.1)) (r.addrOf o.1) p.id else s) s'
    let done : Request := { r with performed := true, olds := if r.reply then olds else [] }
    if r.wave = orphanWave then { s' with requests := s'.requests.filter (fun q => q.id != r.id) }
    else if r.reply || ! s.answerable r then
      ({ s' with requests := s'.requests.map (fun (q : Request) => if q.id = r.id then done else q) }).onWave r.wave
        (fun w => w.lose r.op r.accesses)
    else
      ({ s' with requests := s'.requests.filter (fun q => q.id != r.id) }.noteAnswer done).onWave r.wave
        (fun w => w.performed r.op r.accesses)

def execServiceWarpPerform (req : Nat) (s : State) : Host.Outcome State Fault Refusal :=
  match s.requests.find? (fun r => r.id == req) with
  | none => .next s
  | some r =>
    match s.partOfCluster r.home with
    | none => .next s
    | some p =>
      let c := s.cluster r.home
      if r.performed || r.held || ! isFirstAtHome s r || ! c.power || s.module.activity.sv ≤ c.svUsed then .next s
      else .next (performRequest s r p)

/-- The replies of an operation that the mask names and that are held for it. -/
def repliesOf (s : State) (u op : Nat) (mask : BitVec 32) : List (Nat × DWord × Bool) :=
  (s.requests.filter (fun r => r.wave == u && r.op == op && r.performed)).flatMap (fun r => r.olds.filter (fun o => mask.getLsbD o.1))

/-- Take delivered replies off the requests; a request with none left is gone. -/
def dropReplies (rs : List Request) (u op : Nat) (mask : BitVec 32) : List Request :=
  (rs.map (fun r => if r.wave = u ∧ r.op = op ∧ r.performed then { r with olds := r.olds.filter (fun o => ! mask.getLsbD o.1) } else r)).filter
    (fun r => ! (r.wave == u && r.op == op && r.performed && r.olds.isEmpty))

def execAtomicReplyReturn (u op : Nat) (mask : BitVec 32) (s : State) : Host.Outcome State Fault Refusal :=
  match s.flying? u op with
  | none => .next s
  | some f =>
    let os := repliesOf s u op mask
    if os.isEmpty || ! (s.cluster f.block.cluster).power then .next s
    else
      let told := (s.requests.filter (fun r => r.wave == u && r.op == op && r.performed)).map (fun (r : Request) =>
        { r with olds := r.olds.filter (fun o => mask.getLsbD o.1) })
      let s' := { s with requests := dropReplies s.requests u op mask }
      let s' := (told.filter (fun r => ! r.olds.isEmpty)).foldl State.noteAnswer s'
      let last := ! s'.requests.any (fun r => r.wave == u && r.op == op)
      let spans := (told.flatMap (fun r => r.accesses.flatMap (accessSpans f))).eraseDups
      let es := seenBy s' f 3 spans
      let acq := f.pend.order == .acq || f.pend.order == .ar
      let s' := if last && acq && f.pend.scope.wideCl then s'.discard f.block.coreIndex else s'
      .next (s'.onWave u (fun w =>
        let w := os.foldl (fun w o => w.fill f.pend.dst f.pend.size o.1 { val := o.2.1.toNat, pz := o.2.2 }) w
        if last then (w.complete op).see es else w))

/-! ### Evictions, write-backs, promotion flushes -/

/-- Evict a line of an L1 (R122): its clean copies go, its dirty sectors are on their way to the home. -/
def execL1Eviction (core line : Nat) (s : State) : Host.Outcome State Fault Refusal :=
  .next { s with dirty := s.dirty.map (fun d => if d.core = core ∧ d.sector / 4 = line then { d with sent := true } else d)
                 clean := s.clean.filter (fun k => ! (k.core == core && k.sector / 4 == line)) }

/-- The partition of a core. -/
def partOfCore (s : State) (core : Nat) : Option Part := s.partOfCluster (core / Config.coresPerCluster)

/-- A write-back under way arrives at its home (R123). -/
def execHomeWriteBack (core sector : Nat) (s : State) : Host.Outcome State Fault Refusal :=
  match partOfCore s core with
  | none => .next s
  | some p => .next (s.recallDirty p (fun d => d.core == core && d.sector == sector && d.sent))

/-- A promotion flush of the releases that a core has left on a sector: the core writes back what they cover, and the sector
(R142). -/
def execPromotionFlush (core sector : Nat) (s : State) : Host.Outcome State Fault Refusal :=
  match partOfCore s core with
  | none => .next s
  | some p =>
    let marks := (s.marksOn outsideCore sector).filter (fun m => m.1 == core)
    .next (if marks.isEmpty then s
           else s.recallDirty p (fun d => d.core == core && (d.sector == sector || marks.any (fun m => State.coveredBy m d))))

end Sys2Proof.Machine
end

