-- ==== Sys2Proof/Machine/Recovery.lean ====
section
/-! DEFINITION. Shadow closures, power loss, Dawn, pre-emption and module resume (R132, R133, R149, R364, R366, R367,
R387-R394, R413). -/

namespace Sys2Proof.Machine

/-! ### Closures and the backlog (R387, R388) -/

/-- Write-behind copies granules that are dirty for the open image into it, oldest first, within ACTWB (R358, R387). -/
def execShadowWriteBehind (cl kib : Nat) (s : State) : Host.Outcome State Fault Refusal :=
  let c := s.cluster cl
  let n := min (kib / 4) c.dirtyOpen.length
  if ! s.shadowed cl || s.module.activity.wb < c.wbUsed + 4 * n then .next s
  else .next (s.onCluster cl (fun c => { c with dirtyOpen := c.dirtyOpen.take (c.dirtyOpen.length - n), wbUsed := c.wbUsed + 4 * n }))

/-- The backlog is zero and 10 µs have passed since the last closure (R388). -/
def execImageClose (cl : Nat) (s : State) : Host.Outcome State Fault Refusal :=
  let c := s.cluster cl
  if ! s.shadowed cl || c.backlog != 0 || ! s.canReach (c.lastClose + 10000) then .next s
  else .next ((s.reach (c.lastClose + 10000)).closeImage cl false false)

/-! ### Stopping a cluster (R389, R394) -/

/-- A cluster's residents leave its cores: their state stands in the image. Open faults of its waves close (R394 step 4). The homes
still know the sectors that its L1s hold dirty (R123). -/
def State.vacate (s : State) (cl : Nat) : State :=
  let ws := (s.clusterWaves cl).map Wave.uid
  let ks := (s.clusterCopies cl).map Copy.id
  let s := s.closeFaults (fun p => match p with | .wave u => ws.contains u | _ => false)
  { s with
    waves := s.waves.filter (fun w => ! ws.contains w.uid)
    blocks := s.blocks.filter (fun b => b.cluster != cl)
    copies := s.copies.filter (fun k => ! ks.contains k.id)
    clean := s.clean.filter (fun d => ! inCluster cl d.core), l1Bad := s.l1Bad.filter (fun e => ! inCluster cl e.1) }

/-- A tile's rail fails: the open image is closed by the flush, or torn, and the cluster is without power (R389). A stopped
cluster's state is in its image already. -/
def State.losePower (s : State) (cl : Nat) (torn : Bool) : State :=
  if ! (s.cluster cl).power then s
  else
    let s := if s.isStopped cl then s else (s.closeImage cl true torn).vacate cl
    s.onCluster cl (fun c => { c with power := false })

def execTilePowerLoss (cl : Nat) (torn : Bool) (s : State) : Host.Outcome State Fault Refusal := .next (s.losePower cl torn)

/-! ### Dawn (R390, R391, R413) -/

/-- The complete image with the greater epoch. -/
def Cluster.pick (c : Cluster) : Option Image :=
  match c.imageA.filter (fun i => i.complete), c.imageB.filter (fun i => i.complete) with
  | some a, some b => some (if b.epoch < a.epoch then a else b)
  | some a, none => some a
  | none, b => b

/-- RESUME after a restore (R77). -/
def resumeWord (i : Image) (torn : Bool) (cause : Nat) : Word :=
  BitVec.ofNat 32 (i.epoch % 2 ^ 16 * 2 ^ 16 + torn.toNat * 8 + (! i.current).toNat * 4 + cause)

/-- Partition state still has the block resident in the cluster (R413). -/
def stillPlaced (s : State) (cl : Nat) (b : Block) : Bool :=
  match s.grid? b.grid with
  | none => false
  | some g => if b.task then g.taskPlaced.any (fun e => firstTask e.1.records == b.lin && e.2 == cl)
              else g.placed.any (fun e => e.1 == b.lin && e.2 == cl)

/-- The block's policy starts it again from its entry after a power loss (R132, R256). -/
def restarts (s : State) (cause : Nat) (g : Nat) : Bool := cause != 3 && (s.grid? g).any (fun g => g.restart)

/-- A matrix operation goes on after the resume, marked PREEMPTED (R267, R269). -/
def Block.resumed (b : Block) (word : Word) : Block :=
  { b with resume := word
           ctxs := b.ctxs.map (fun (e : Nat × Ctx) => (e.1, { e.2 with op := e.2.op.map (fun (o : MxOp) => { o with preempted := true }) })) }

/-- Requests of a restored wave meet what the wave knows: one that it does not know has no wave; one already performed is taken
off its operation (R133, R149). -/
def settleRequests (s : State) (u : Nat) : State :=
  (s.requests.filter (fun r => r.wave == u)).foldl (fun s r =>
    if ! s.answerable r then
      if r.performed then { s with requests := s.requests.filter (fun q => q.id != r.id) }
      else { s with requests := s.requests.map (fun (q : Request) => if q.id = r.id then { q with wave := orphanWave, reply := false } else q) }
    else if ! r.performed then s
    else if r.reply then s.onWave u (fun w => w.lose r.op r.accesses)
    else ({ s with requests := s.requests.filter (fun q => q.id != r.id) }).onWave u (fun w => w.performed r.op r.accesses)) s

/-- Insert a block that is admitted again, in ascending linear index (R53). -/
def insertAgain (e : Nat × Word) : List (Nat × Word) → List (Nat × Word)
  | [] => [e]
  | f :: t => if e.1 < f.1 then e :: f :: t else f :: insertAgain e t

/-- The blocks and task waves of a grid that partition state places in the cluster and that were not restored are admitted again
(R413). -/
def Grid.readmit (g : Grid) (cl : Nat) (has : Nat → Bool → Bool) (word : Word) : Grid :=
  let lost := g.placed.filter (fun e => e.2 == cl && ! has e.1 false)
  { g with placed := g.placed.filter (fun e => ! lost.contains e)
           taskPlaced := g.taskPlaced.filter (fun e => ! (e.2 == cl && ! has (firstTask e.1.records) true))
           again := lost.foldl (fun l e => insertAgain (e.1, word) l) g.again }

/-- Task waves of a grid that are admitted again. -/
def Grid.lostTasks (g : Grid) (cl : Nat) (has : Nat → Bool → Bool) (word : Word) : List TaskWave :=
  (g.taskPlaced.filter (fun e => e.2 == cl && ! has (firstTask e.1.records) true)).map (fun e => { e.1 with resume := word })

/-- Admit again what the restore left out. -/
def readmitAll (s : State) (cl : Nat) (word : Word) : State :=
  let has := fun (g : Grid) (lin : Nat) (task : Bool) => s.blocks.any (fun b => b.grid == g.id && b.task == task && b.lin == lin && b.cluster == cl)
  let tasks := s.grids.flatMap (fun g => g.lostTasks cl (has g) word)
  { s with grids := s.grids.map (fun g => g.readmit cl (has g) word)
           parts := s.parts.map (fun (p : Part) => { p with taskWaves := p.taskWaves ++ tasks.filter (fun t =>
             (s.grid? t.grid).any (fun g => g.part == p.id)) }) }

/-- Kill grids with a cause that no instruction gave (R390, R392). -/
def killAll (s : State) (cl cause : Nat) (gs : List Nat) : State :=
  gs.foldl (fun s g => s.killGrid g 0 cl 0 { cause := cause, detail := 0, toff := 0, lanes := 0, addr := 0, word10 := 0 }) s

/-- Grids with a block placed in the cluster. -/
def gridsIn (s : State) (cl : Nat) : List Grid := s.grids.filter (fun g => g.placed.any (fun e => e.2 == cl) || g.taskPlaced.any (fun e => e.2 == cl))

/-- Restore the blocks, waves, sectors, copies, barriers and, exactly, the checker of an image (R71, R390, R391); then the blocks
that have gone since, or that start again, retire from it (R413). -/
def State.restoreImage (s : State) (cl : Nat) (i : Image) (word : Word) (cause : Nat) : State :=
  let stays := fun (b : Block) => stillPlaced s cl b && ! restarts s cause b.grid
  let gone := i.blocks.filter (fun b => ! stays b)
  let here := fun (u : Nat) => i.blocks.any (fun b => b.uid == u && stays b)
  let dirty := i.dirty.filter (fun d => i.current || ! i.superseded.contains (d.core, d.sector))
  let ws := i.waves.filter (fun w => here w.block)
  let s := { s with
    blocks := s.blocks ++ i.blocks.map (fun b => b.resumed word)
    waves := s.waves ++ i.waves
    dirty := dirty.foldl (fun l d => insertDirty d l) (s.dirty.filter (fun d => ! inCluster cl d.core))
    copies := s.copies ++ i.copies.filter (fun k => here k.block)
    requests := s.requests ++ (if i.current then [] else i.answered)
    grids := s.grids.map (fun g => match i.cb.find? (fun e => e.1 == g.id) with
      | some e => { g with cb := e.2.foldl (fun m x => Sparse.set .start m x.1 x.2)
                                  (Sparse.dropKeys (fun k => (g.cbIn cl).any (fun x => x.1 == k)) g.cb) }
      | none => g) }
  gone.foldl State.dropBlock ((ws.foldl (fun s w => settleRequests s w.uid) s).onGck cl (fun _ => i.gck))

/-- What a cluster without a complete image held is gone: its images, what its L1s held dirty, the requests of its waves, its checker's
queues (R390). -/
def State.forget (s : State) (cl : Nat) : State :=
  let old := fun (o : Option Image) => o.map (fun i => { i with current := false })
  { s with dirty := s.dirty.filter (fun d => ! inCluster cl d.core), requests := s.requests.filter (fun r => ! inCluster cl r.core) }.onCluster cl
    (fun c => { c with gck := { c.gck with queue := [], fifo := [], scan := false, again := false }, torn := false
                       imageA := old c.imageA, imageB := old c.imageB, dirtyOpen := [], dirtyClosed := [] })

/-- Dawn restores a cluster (R390, R413); `cause` is RESUME's, and `core` the core that the spare stands in for, if the map retires it. -/
def State.dawn (s : State) (cl cause core : Nat) : State :=
  let c := s.cluster cl
  let s := (s.onCluster cl (fun c => { c with power := true })).applySpare cl core
  match c.pick with
  | none => killAll (s.forget cl) cl Cause.uncorrectable ((gridsIn s cl).map Grid.id)
  | some i =>
    let word := resumeWord i c.torn cause
    let before := gridsIn s cl
    let s := readmitAll (s.restoreImage cl i word cause) cl word
    let s := if i.current then s
             else killAll s cl Cause.fallback ((before.filter (fun g => g.hasGb || g.gang.isSome)).map Grid.id)
    s.onCluster cl (fun c => { c with torn := false, imageA := c.imageA.map (fun i => { i with current := false })
                                      imageB := c.imageB.map (fun i => { i with current := false })
                                      dirtyOpen := if i.current then c.dirtyOpen else s.granules cl, dirtyClosed := [] })

/-- The tile has power again and Dawn resumes it, with its spare core in place of a retired one: of `core`, where several are (R23, R400);
the blocks of a stopped partition wait for its resume. -/
def execDawnResume (cl core : Nat) (s : State) : Host.Outcome State Fault Refusal :=
  if (s.cluster cl).power then .next s
  else .next (if s.isStopped cl then s.onCluster cl (fun c => { c with power := true }) else s.dawn cl 1 core).sendKills

/-! ### Module power loss and resume (R132, R367, R392, R393) -/

/-- The CC writes the partition's TIME through to MRAM (R392). -/
def execTlastWrite (p : Nat) (s : State) : Host.Outcome State Fault Refusal :=
  match s.part? p with
  | none => .next s
  | some q => .next (s.onPart p (fun x => { x with tlast := BitVec.ofNat 64 (s.timeOf q) }))

/-- Memory that keeps its contents: the MRAM window and host memory. -/
def survives (a : Nat) : Bool := a / Config.mramBit % 2 == 1 || a / Config.hostBit % 2 == 1

/-- The partition block at creation and after power-on (R7, R352). -/
def Budget.start (clusters : Nat) : Budget :=
  { clus := clusters, tok := 0x1FFFFFF, sus := 0, req := 0, isOpen := true, tight := 0, pused := 0, hused := 0, peak := 0,
    throttled := false }

/-- The registers of a partition at their reset values (R7, R352, R370). -/
def Part.resetRegs (p : Part) : Part :=
  { p with budget := .start p.clusterCount, xlate := .start, debugger := false, debugUsed := 0 }

/-- The module's rails drop: every cluster closes its image or tears it, and HBM, the weight store and what the front end keeps in
HBM of a launch, its constants, are lost (R132). Error marks stay with their units (R412). -/
def State.moduleLoss (s : State) (torn : List Nat) : State :=
  let s := (List.range Config.clusters).foldl (fun s cl => s.losePower cl (torn.contains cl)) s
  let s := { s with
    mem := s.mem.filter (fun e => survives e.1), ws := [], tlb := [], faults := [],
    grids := s.grids.map (fun (g : Grid) => { g with kconst := [] })
    parts := s.parts.map (fun (p : Part) => { p.resetRegs with preempted := false, lost := true, recreated := false }) }
  s.setModule { s.module with boot := 0, recovery := false, mstate := .idle, nonce := 0 }

def execModulePowerLoss (torn : List Nat) (s : State) : Host.Outcome State Fault Refusal := .next (s.moduleLoss torn)

/-- EPOCH of a recreated partition (R367): the greatest multiple of 64,000 ns, modulo 2^64, at which TIME is at least
TLAST + 64,000. -/
def resumeEpoch (time tlast : Nat) : Nat :=
  ((((time : Int) - (tlast : Int) - 64000) / 64000 * 64000) % (2 ^ 64 : Nat)).toNat

/-- A grid whose launch constants the host has restored (R132, R393). -/
def Grid.withConstants (g : Grid) (bs : List Byte) : Grid :=
  { g with kconst := ((bs.take g.ksize).mapIdx (fun i b => (i, b))).filter (fun e => e.2 != 0) }

/-- A partition as its resume finds it: EPOCH from TLAST, and TIME written through as TLAST (R367, R392). -/
def Part.resumed (p : Part) (time : Nat) : Part :=
  let e := resumeEpoch time p.tlast.toNat
  { p with epoch := e, lost := false, recreated := false, tlast := BitVec.ofNat 64 ((time + (2 ^ 64 - e % 2 ^ 64)) % 2 ^ 64) }

/-- The host, having recreated the partition and restored launch constants of its grids, requests its resume (R393); a WSLOAD that runs
ends first, since the resume makes kernels resident (R129). -/
def execModuleResumeRequest (r : ResumeInput) (s : State) : Host.Outcome State Fault Refusal :=
  match s.part? r.part with
  | none => .next s
  | some q =>
    if ! q.lost || ! q.recreated || s.module.boot != 8 || s.copies.any (fun k => k.kind == .wsload && k.part == r.part) then .next s
    else
      let s := s.onPart r.part (fun x => x.resumed s.module.time)
      let s : State := { s with grids := s.grids.map (fun (g : Grid) =>
        match r.constants.find? (fun (k : Nat × List Byte) => k.1 == g.id && g.part == r.part) with | some k => g.withConstants k.2 | none => g) }
      .next (q.clusters.foldl (fun s cl => s.dawn cl 2 Config.coresPerCluster) s).sendKills

/-! ### Thermal protection (R364) -/

/-- Entry and exit temperatures of a step. -/
def stepEnter : Nat → Nat
  | 1 => 95
  | 2 => 100
  | 3 => 108
  | _ => 120
def stepExit : Nat → Nat
  | 1 => 90
  | 2 => 95
  | 3 => 103
  | _ => 0

/-- The step after a temperature reading. -/
def stepAfter (old temp : Nat) : Nat :=
  let up := ([1, 2, 3, 4].filter (fun k => decide (stepEnter k ≤ temp))).foldl max 0
  let hold := ([1, 2, 3, 4].filter (fun k => decide (k ≤ old) && decide (stepExit k ≤ temp))).foldl max 0
  max up hold

/-- Clusters of a die. -/
def clustersOfDie (die : Nat) : List Nat := (List.range Config.clusters).filter (fun cl => dieOfCluster cl == die)

/-- The thermal ceilings of a die's clusters as a step is entered or left. -/
def State.thermalCeilings (s : State) (die old new : Nat) : State :=
  if decide (old < 2) && decide (2 ≤ new) then
    ((clustersOfDie die).foldl (fun s cl => s.onCluster cl (fun c => { c with volt := c.volt.turned { c.volt with thermal := max 450 (c.volt.vnow - 60) } })) s).settleVolts
  else if decide (2 ≤ old) && decide (new < 2) then
    ((clustersOfDie die).foldl (fun s cl => s.onCluster cl (fun c => { c with volt := c.volt.turned { c.volt with thermal := 780 } })) s).settleVolts
  else s

/-- A die's temperature is read: its step may change, and step 4 drops the module's rails (R364). -/
def execThermalStepChange (die temp : Nat) (s : State) : Host.Outcome State Fault Refusal :=
  let t := Sparse.get .start s.module.thermal die
  let new := stepAfter t.step temp
  let s := s.setModule { s.module with thermal := Sparse.set .start s.module.thermal die { step := new, temp := temp % 256 } }
  let s := s.thermalCeilings die t.step new
  let s := if t.step < new then s.tell (.thermal die new) else s
  .next (if decide (t.step < 4) && new == 4 then s.moduleLoss [] else s)

/-! ### Pre-emption (R394) -/

/-- Complete what a wave has issued: data, replies and copies return, stores reach their place (R394 step 2). -/
def drainOp (s : State) (u op : Nat) : State :=
  match s.flying? u op with
  | none => s
  | some f =>
    let r := match f.pend.kind with
      | .load | .loadWs => execLoadDataReturn u op (BitVec.allOnes 32) s
      | .store => execStoreComplete u op s
      | .copy => execCplCopyComplete u op s
      | .atomic => execAtomicReplyReturn u op (BitVec.allOnes 32) s
      | .reduce | .matrix | .receive => .next s
    match r with
    | .next s => s
    | _ => s

def drainWave (s : State) (u : Nat) : State :=
  match s.wave? u with
  | none => s
  | some w => (w.pend.map Pend.id).foldl (fun s op => drainOp s u op) s

/-- Perform the requests at the homes of a partition, in order of arrival; its activity budget does not bind (R358). -/
def drainHomes (s : State) (p : Part) : State :=
  (s.requests.filter (fun r => p.hasCluster r.home && ! r.performed && ! r.held)).foldl (fun s r =>
    if isFirstAtHome s r && (s.cluster r.home).power then performRequest s r p else s) s

/-- The waves that run in a partition. -/
def State.wavesIn (s : State) (q : Part) : List Wave := s.waves.filter (fun w => (s.block? w.block).any (fun b => q.hasCluster b.cluster))

/-- Every memory request, atomic and fill that the partition has issued is complete (R394 step 2). -/
def State.drained (s : State) (q : Part) : Bool :=
  (s.wavesIn q).all (fun w => w.pend.all (fun p => p.done || p.kind == .matrix || p.kind == .receive))
    && s.requests.all (fun r => ! q.hasCluster r.home || r.performed)

/-- Let everything complete that the partition has issued. -/
def State.drain (s : State) (q : Part) : State :=
  let all := fun (s : State) => ((s.wavesIn q).map Wave.uid).foldl drainWave s
  all (drainHomes (all s) q)

/-- The CC pre-empts a partition; while something issued cannot complete yet, for a refresh window, a home without power or a
reload of its service store, it waits (R394 step 2). -/
def execPreempt (p : Nat) (s : State) : Host.Outcome State Fault Refusal :=
  match s.part? p with
  | none => .next s
  | some q =>
    let t := s.drain q
    if q.preempted || q.lost || ! t.drained q then .next s
    else
      let up := q.clusters.filter (fun cl => (t.cluster cl).power)
      let t := up.foldl (fun s cl => (s.closeImage cl true false).vacate cl) t
      .next (t.onPart p (fun x => { x with preempted := true }))

/-- The requests that arrived at a cluster's homes before the reload have all been performed. -/
def State.oldServed (s : State) (cl : Nat) : Bool := s.requests.all (fun r => r.home != cl || r.performed || r.held)

/-- A cluster's store is swapped if a reload is pending, and the held requests proceed under the new code (R251, R396). -/
def State.swapStore (s : State) (cl : Nat) : State :=
  match (s.cluster cl).service.next with
  | none => s
  | some image =>
    let s := s.onCluster cl (fun c => { c with service := { image := image, next := none } })
    { s with requests := s.requests.map (fun (r : Request) => if r.home = cl then { r with held := false } else r) }

/-- The partition is restored with IMAGE 0, each cluster's store swapped before its context if a reload is pending (R396), and
admission reopens. -/
def execPreemptResume (p : Nat) (s : State) : Host.Outcome State Fault Refusal :=
  match s.part? p with
  | none => .next s
  | some q =>
    if ! q.preempted || q.lost || q.clusters.any (fun cl => ! (s.cluster cl).power || ! s.oldServed cl) then .next s
    else .next (q.clusters.foldl (fun s cl => (s.swapStore cl).dawn cl 3 Config.coresPerCluster)
      ((s.setModule { s.module with restarts := s.module.restarts.filter (· != p) }).onPart p (fun x => { x with preempted := false })))

end Sys2Proof.Machine
end

