-- ==== Sys2Proof/Machine/Partitions.lean ====
section
/-! DEFINITION. Creating and destroying partitions, and reloading the service stores (R126, R251, R367, R395, R396). -/

namespace Sys2Proof.Machine

/-! ### Creation and destruction (R395) -/

/-- The stack domains of two partitions meet. -/
def domainsMeet (startA countA startB countB : Nat) : Bool := decide (startA < startB + countB) && decide (startB < startA + countA)

/-- A shape that R395 allows. -/
def shapeOk (start domains : Nat) : Bool :=
  [1, 2, 4, 8, 16].contains domains && start % domains == 0 && decide (start + domains ≤ Config.domains)

/-- The clusters of a run of stack domains. -/
def domainClusters (start domains : Nat) : List Nat :=
  (List.range (domains * Config.clustersPerDomain)).map (start * Config.clustersPerDomain + ·)

/-- Weight-store units of 32 MiB that partitions hold on a die (R126). -/
def wsUsed (parts : List Part) (die : Nat) : Nat := ((parts.filter (fun p => p.dies.contains die)).map Part.wssz).sum

/-- Take a partition away: its grids, the copies of its packets, its open faults and its cached translations. -/
def State.removePart (s : State) (p : Nat) : State :=
  let ks := (s.copies.filter (fun k => k.part == p)).map Copy.id
  let s := { s with parts := s.parts.filter (fun q => q.id != p), grids := s.grids.filter (fun g => g.part != p)
                    copies := s.copies.filter (fun k => k.part != p) }
  (s.closeFaults (fun f => match f with | .copy k => ks.contains k | .queue q _ => q == p | .wave _ => false)).dropTlb p 0 0

/-- A cluster as creation leaves it: no shadow image, and nothing in its checker (R395). -/
def Cluster.cleared (c : Cluster) : Cluster :=
  { c with gck := { c.gck with queue := [], fifo := [], scan := false, again := false }, imageA := some .blank, imageB := none, epoch := 0, torn := false,
           dirtyOpen := [], dirtyClosed := [] }

/-- Clear the clusters of a partition that is created. -/
def State.clearClusters (s : State) (cls : List Nat) : State :=
  let mine := fun (core : Nat) => cls.contains (core / Config.coresPerCluster)
  let s := { s with dirty := s.dirty.filter (fun d => ! mine d.core), clean := s.clean.filter (fun d => ! mine d.core)
                    homeMarks := s.homeMarks.filter (fun d => ! mine d.core), l1Bad := s.l1Bad.filter (fun e => ! mine e.1) }
  cls.foldl (fun s cl => (s.onCluster cl Cluster.cleared).applySpare cl Config.coresPerCluster) s

/-- EPOCH at creation: the first multiple of 64,000 ns at or after the instant (R367). -/
def creationEpoch (time : Nat) : Nat := (time + 63999) / 64000 * 64000

/-- A partition as creation leaves it (R395). -/
def Part.create (id start domains wssz arena time : Nat) : Part :=
  { id := id, start := start, domains := domains, budget := .start (domains * Config.clustersPerDomain), epoch := creationEpoch time,
    wssz := wssz, xlate := .start, queues := [], timelines := [], gates := [], dispensers := [], endpoints := [], channels := [],
    tasks := [], taskWaves := [], arena := arena, arenaNext := 0, graphs := [], tlast := 0, preempted := false, lost := false, recreated := false,
    debugger := false, debugUsed := 0, kills := [] }

/-- The control core may create the partition: its number is free, its shape and share are allowed, and its stack domains hold
nothing; partitions that a module power loss left and that no resume has claimed do not count (R126, R393, R395). -/
def mayCreate (s : State) (p start domains wssz : Nat) : Bool :=
  let live := s.parts.filter (fun q => ! q.lost)
  s.module.boot == 8 && decide (p < 16) && shapeOk start domains && live.all (fun q => q.id != p)
    && live.all (fun q => ! domainsMeet start domains q.start q.domains)
    && s.blocks.all (fun b => ! (domainClusters start domains).contains b.cluster)
    && decide (wssz ≤ 96)
    && (List.range Config.dies).all (fun d => ! (Part.create p start domains wssz 0 0).dies.contains d || decide (wsUsed live d + wssz ≤ 96))

/-- A partition that a module power loss took, in its former configuration, which the host now recreates for a resume (R393). -/
def Part.isFormer (q : Part) (p start domains wssz arena : Nat) : Bool :=
  q.lost && ! q.recreated && q.id == p && q.start == start && q.domains == domains && q.wssz == wssz && q.arena == arena

/-- Create a partition. One that a module power loss took keeps its state and its images when it is created again as it was, for the
resume; any other creation on its stack domains discards them (R393, R395). -/
def execPartitionCreate (p start domains wssz arena : Nat) (s : State) : Host.Outcome State Fault Refusal :=
  if ! mayCreate s p start domains wssz then .next s
  else if s.parts.any (fun q => q.isFormer p start domains wssz arena) then
    .next (s.onPart p (fun q => { q.resetRegs with recreated := true }))
  else
    let s := s.setModule { s.module with timeSet := true }
    let gone := (s.parts.filter (fun q => q.lost && (q.id == p || domainsMeet start domains q.start q.domains))).map Part.id
    let s := gone.foldl State.removePart s
    let s := s.clearClusters (domainClusters start domains)
    .next { s with parts := s.parts ++ [Part.create p start domains wssz arena s.module.time] }

/-- Destroy a partition whose stack domains hold no resident block and no saved context (R395). One that has been created again after a
module power loss, and whose resume the host does not request, goes with its images (R393; log 38). -/
def execPartitionDestroy (p : Nat) (s : State) : Host.Outcome State Fault Refusal :=
  match s.part? p with
  | none => .next s
  | some q =>
    if q.lost then .next (if q.recreated then (s.removePart p).clearClusters q.clusters else s)
    else if q.preempted || s.blocks.any (fun b => q.hasCluster b.cluster)
      || s.grids.any (fun g => g.part == p && ! (g.placed.isEmpty && g.taskPlaced.isEmpty)) then .next s
    else .next (s.removePart p)

/-! ### Service stores (R251, R396) -/

/-- An image that Thadin signed, of no version below the minimum, is loaded into every cluster's store in turn, and raises the minimum;
another changes nothing and raises a trap (R396, R404). -/
def execServiceReload (image : Nat) (signed : Signed) (s : State) : Host.Outcome State Fault Refusal :=
  if s.module.security.signerOf [.thadin] (some signed) != some .thadin then .next (s.tell (.serviceRejected image))
  else .next ((List.range Config.clusters).foldl (fun s cl =>
    s.onCluster cl (fun c => { c with service := { c.service with next := some image } })) (s.setModule { s.module with
      serviceImage := image, security := s.module.security.raiseLeast .thadin signed.version }))

/-- A cluster's queue has drained: its store is swapped and the held requests proceed (R251). -/
def execServiceStoreSwap (cl : Nat) (s : State) : Host.Outcome State Fault Refusal :=
  .next (if s.oldServed cl && (s.cluster cl).power then s.swapStore cl else s)

end Sys2Proof.Machine
end

