-- ==== Sys2Proof/Machine/Bench.lean ====
section
/-! DEFINITION. The launch that stands for a program loaded from outside: a partition, its page tables, a grid of one block with one
wave, and the code (log 2). -/

namespace Sys2Proof.Machine

/-- Where the bench's code and its two page tables stand. -/
def benchCode : Nat := 0x10000
def benchRoot : Nat := 0x4000
def benchLevel1 : Nat := 0x8000

/-- A level-0 entry for the level-1 table, and one leaf that maps the lowest 64 GiB onto themselves, readable and writable (R371,
R372). -/
def State.benchTables (s : State) : State :=
  (s.writeBytes benchRoot (natToBytes 8 (benchLevel1 + 1))).writeBytes benchLevel1 (natToBytes 8 0xF)

/-- All that one core and one cluster can grant to a block (R54). -/
def benchAmounts : Amounts := { spm := 128, csp := 32, acc := 64, mxe := 2, tag := 64 }

/-- The partition: stack domain 0, the handler bound to the code itself. -/
def benchPart (time : Nat) : Part :=
  { Part.create 0 0 1 0 0 0 with
    epoch := time / 64000 * 64000
    xlate := { Xlate.start with ptroot := BitVec.ofNat 64 benchRoot, hbase := BitVec.ofNat 64 benchCode, hsize := 4092,
                                pvbase := BitVec.ofNat 64 (2 ^ 35) } }

/-- The grid: one block of one wave, everything granted. -/
def benchGrid (id : Nat) : Grid :=
  { id := id, part := 0, krec := 0, code := benchCode, codesz := 4092, entry := 0, claim := benchAmounts, alloc := benchAmounts,
    regClaim := 32, regAlloc := 32, formats := List.replicate 16 0, counts := List.replicate 40 0,
    ranges := List.replicate 8 { base := 0, limit := 0 }, slots := List.replicate 16 0, restart := false, dimX := 1, dimY := 1, dimZ := 1,
    waves := 1, group := 1, clusters := 1, ogate := none, wgate := none, coop := false, gang := none, ticket := 1, pass := 0,
    dispensers := [], kconst := [], ksize := 0, queue := 0, index := 0, node := none, next := 1, retired := [], placed := [(0, 0)],
    taskPlaced := [], opened := [], lastCluster := some 0, cb := [], gb := [], topen := false, nextTask := 32, again := [],
    homes := [], inRace := false }

def benchPlace : Place := { cluster := 0, core := 0, slices := [1], slots := [0] }

/-- The bench: the launch has been made, and its wave stands at its entry; `handler` puts it at handler level, for a privileged
word. -/
def State.benched (s : State) (handler : Bool) : State :=
  let g := benchGrid s.fresh
  let p := benchPart s.module.time
  let i : Item := { grid := g, lin := 0, records := [], task := false, resume := 0 }
  let s := { s with fresh := s.fresh + 1, parts := p :: s.parts.filter (fun q => q.id != 0), grids := g :: s.grids }
  let u := s.fresh + 1
  let s := s.benchTables.addBlock p i benchPlace
  { s.onWave u (fun w => { w with handler := handler }) with issuing := u }

/-- Where the issuing wave fetches from, if it can: the physical addresses of its twelve code bytes. -/
def State.fetchSpot (s : State) (c : Issue) : Option (List Nat) :=
  (List.range 12).mapM (fun i => match lookup s c.part c.die (codeBase c + c.pc + i) with
    | .leaf l => if l.r then some (l.phys (codeBase c + c.pc + i)) else none
    | _ => none)

/-- Place the bytes where the issuing wave fetches, and let it issue next. -/
def State.placeCode (s : State) (bs : List Byte) : State :=
  match s.headIssue?.bind s.fetchSpot with
  | none => s
  | some as_ => { s.writeCells (List.zip as_ bs) with agenda := [.issue s.issuing] }

/-- The issuing wave can issue and fetch, at the level that the word needs. -/
def State.fetches (s : State) (privileged : Bool) : Bool :=
  match s.headIssue? with
  | none => false
  | some c => s.mayIssue c && (s.fetchSpot c).isSome && (! privileged || c.wave.handler)

/-- The state with an instruction's bytes where the next step fetches it. -/
def State.withBytes (s : State) (bs : List Byte) : State :=
  let priv := privilegedWord (wordOfBytes bs)
  (if s.fetches priv then s else s.benched priv).placeCode bs

end Sys2Proof.Machine
end

