-- ==== Sys2Proof/Machine/Integrity.lean ====
section
/-! DEFINITION. Error counts, the Herrum ports, spares and the sparing map (R397-R403, R412). -/

namespace Sys2Proof.Machine

/-! ### Error counts (R399) -/

/-- Clear the counts of the places 0-6 whose bits are set. -/
def clearCounts (m : Sparse ErrorCount) (mask : Word) : Sparse ErrorCount :=
  Sparse.dropKeys (fun p => decide (p < 7) && mask.getLsbD p) m

def execErrorCountClear (mask : Word) (s : State) : Host.Outcome State Fault Refusal :=
  .next (s.setModule { s.module with errors := clearCounts s.module.errors mask })

/-! ### Herrum ports (R397, R401) -/

def State.port (s : State) (n : Nat) : Port := Sparse.get .start s.module.ports n
/-- A port changes; the routes of one that is down are withdrawn (R401). -/
def State.setPort (s : State) (n : Nat) (p : Port) : State :=
  s.setModule { s.module with ports := Sparse.set .start s.module.ports n p
                              routes := if p.down then s.module.routes.filter (fun r => r.2 != n) else s.module.routes }

/-- A lane fails: the first time the port retrains onto its spare, the second time it goes down. -/
def Port.failLane (p : Port) : Port :=
  { failedLanes := p.failedLanes + 1, retraining := p.failedLanes == 0, down := p.down || p.failedLanes != 0, retries := 0 }

def execHerrumLaneFail (port : Nat) (s : State) : Host.Outcome State Fault Refusal :=
  if decide (Config.ports ≤ port) || (s.port port).down then .next s else .next (s.setPort port (s.port port).failLane)

/-- The port has retrained onto its spare, and its traffic proceeds. -/
def execLaneRetrainComplete (port : Nat) (s : State) : Host.Outcome State Fault Refusal :=
  if ! (s.port port).retraining then .next s else .next (s.setPort port { s.port port with retraining := false })

/-- One retry of a flit whose CRC failed, and whether it succeeds; after sixteen failed ones the lane fails over. -/
def execFlitCrcRetry (port : Nat) (good : Bool) (s : State) : Host.Outcome State Fault Refusal :=
  let p := s.port port
  if decide (Config.ports ≤ port) || p.down || p.retraining then .next s
  else if good then .next ((s.setPort port { p with retries := 0 }).noteCorrected 5)
  else if p.retries + 1 < 16 then .next (s.setPort port { p with retries := p.retries + 1 })
  else .next ((s.setPort port p.failLane).noteError 5 port 0)

/-! ### Spares (R400, R412) -/

/-- Write `n` bytes that nothing states. -/
def healBytes (s : State) (a n : Nat) : State :=
  { s.writeBytes a ((List.range n).map (fun i => Config.freeByte (s.draws + i))) with draws := s.draws + 64 }

/-- Replace the storage of memory units, and of lost words, whose errors cannot be corrected: they are clean again, with bytes that nothing
states. -/
def healUnits (s : State) (p : Nat → Bool) : State :=
  let s := (s.bad.filter p).foldl (fun s u => healBytes s (errorUnit u) (unitSize u)) s
  (s.lost.filter (fun w => p (4 * w))).foldl (fun s w => healBytes s (4 * w) 4) s

/-- The units that a stack's spare pseudo-channel replaces are clean (R400, R412). -/
def healChannel (s : State) (domain : Nat) : State := healUnits s (fun u => inHbm u && Config.spareHeals domain (errorUnit u))

/-- A resident block stands in one of the clusters, or in the image of one that is stopped or dark. -/
def State.holdsBlock (s : State) (p : Nat → Bool) : Bool :=
  s.blocks.any (fun b => p b.cluster) || s.grids.any (fun g => g.clustersPlaced.any p)

/-- A stack's spare pseudo-channel is brought in while its domain holds no resident block. -/
def execHbmChannelSpare (domain : Nat) (s : State) : Host.Outcome State Fault Refusal :=
  if decide (Config.domains ≤ domain) || s.module.spares.contains (0, domain)
      || s.holdsBlock (fun cl => cl / Config.clustersPerDomain == domain) then .next s
  else
    let s := healChannel s domain
    .next (s.setModule { s.module with spares := (0, domain) :: s.module.spares })

/-- The weight-store unit of a bad byte lies in a bank of a die. -/
def inBank (die bank u : Nat) : Bool := u / Config.wsDieSpan == die && wsBank (u % Config.wsBytesPerDie) == bank

/-- Replace the bad units of a weight-store bank. -/
def healBank (s : State) (die bank : Nat) : State :=
  let s' := (s.wsBad.filter (inBank die bank)).foldl (fun s u =>
    { s with ws := (List.range 8).foldl (fun m i => Sparse.set 0 m (u / 8 * 8 + i) (Config.freeByte (s.draws + i))) s.ws
             draws := s.draws + 8 }) s
  { s' with wsBad := s'.wsBad.filter (fun u => ! inBank die bank u) }

/-- A die's spare bank is brought in while no kernel of its partitions is resident, in an image neither, and no WSLOAD runs (R129). -/
def execEdramBankSpare (die bank : Nat) (s : State) : Host.Outcome State Fault Refusal :=
  let on := s.parts.filter (fun p => p.dies.contains die)
  if decide (Config.dies ≤ die ∨ 8 ≤ bank) || s.module.spares.any (fun e => e.1 == 1 && e.2 / 8 == die)
      || on.any (kernelResident s)
      || s.copies.any (fun k => k.kind == .wsload && on.any (fun p => p.id == k.part)) then .next s
  else
    let s := healBank s die bank
    .next (s.setModule { s.module with spares := (1, 8 * die + bank) :: s.module.spares })

/-! ### The record service (R402, R403) -/

/-- Runtime firmware, which runs once the area is locked, asks the ROM's record service to take a sparing map: one that adds
retirements, and no other, is signed with a leaf and written into the older copy; a power loss may tear that write. -/
def execSparingMapUpdate (parts : List Nat) (torn : Bool) (s : State) : Host.Outcome State Fault Refusal :=
  let x := s.module.security
  if ! x.locked || x.identity.isNone || ! x.retired.all parts.contains || decide (lmsOpen ≤ x.lmsIndex) then .next s
  else .next (s.setModule { s.module with security := x.write (.sparing parts) torn })

end Sys2Proof.Machine
end

