-- ==== Sys2Proof/Machine/Bringup.lean ====
section
/-! DEFINITION. Power-on, leases, recovery reset and the Midnight scrub (R7, R402-R411). -/

namespace Sys2Proof.Machine

/-! ### Registers at their reset values (R7) -/

/-- A cluster's registers after power-on, recovery reset or a scrub; its images and its store stay. -/
def Cluster.resetRegs (c : Cluster) : Cluster :=
  { c with rbl := 64, gck := { c.gck with written := .full, limit := .full }, volt := .start, gated := [], wbUsed := 0, svUsed := 0 }

/-- The module's registers at their reset values; ports keep their failed lanes. -/
def Module.resetRegs (m : Module) : Module :=
  { m with pkon := false, allow := 1000, pmod := 0, activity := .start, scrubbed := [], walked := [], moved := [], hot := [], thermal := [], lock := false, offs := 0, errors := [],
           faultSeq := [], mailbox := [], nonce := 0,
           ports := m.ports.map (fun (e : Nat × Port) => (e.1, { e.2 with retraining := false, retries := 0 })) }

def State.resetRegs (s : State) : State :=
  ({ s with clusters := s.clusters.map (fun (e : Nat × Cluster) => (e.1, e.2.resetRegs)), parts := s.parts.map Part.resetRegs }).setModule
    s.module.resetRegs

/-! ### Midnight (R406, R407) -/

/-- What no scrub of this module overwrites: host memory, and the memory of other modules (R406, R410). -/
def State.outsideModule (s : State) (a : Nat) : Bool := inHost a || (s.nodeOf a).isSome

/-- A cluster after a scrub: its rail, its oscillator and its spare core stay. -/
def Cluster.wiped (c : Cluster) : Cluster := { Cluster.start with power := c.power, clock := c.clock, spared := c.spared }

/-- Every cluster and the runtime firmware halt without drain, and every element is overwritten: what was resident is gone, with
no kill record. -/
def State.wipe (s : State) : State :=
  { s with
    waves := [], blocks := [], grids := [], parts := [], mem := s.mem.filter (fun e => s.outsideModule e.1), bad := s.bad.filter s.outsideModule,
    lost := s.lost.filter (fun w => s.outsideModule (4 * w)), sramBad := [], l1Bad := [], ws := [], wsBad := [], dirty := [], clean := [], homeMarks := [], requests := [], copies := [], tlb := [],
    faults := [], clusters := s.clusters.map (fun (e : Nat × Cluster) => (e.1, e.2.wiped)) }

/-- Steps 1 to 3: KIND 6 is written with PENDING = 1, which takes a leaf, everything halts and is overwritten. The completion record of
the scrub before goes (R406, R407). -/
def State.startScrub (s : State) (r : ScrubRecord) : State :=
  let m := s.module.resetRegs
  let x := m.security.write (.scrub r) false
  { s.wipe with draws := s.draws + 1 }.setModule
    { m with boot := 4, recovery := false, mstate := .scrubbing, scrubStart := m.time, scrubEnd := m.time + Config.scrubTime s.draws % 900000001,
             security := { x with completion := none, locked := false, customerFirmware := false } }

/-- Units of a scrub element (R406) as far as the manual sizes its storage: the weight store, the persistent window, the cluster slices, the
register files and the accumulator stores; spare storage and what it does not size come on top, but for the persistent window (R126, R130;
log 4). -/
def elementUnits (e : Nat) : Nat :=
  let cores := Config.clusters * Config.coresPerCluster
  match e with
  | 1 => Config.dies * Config.wsBytesPerDie / 8 + Config.moreUnits 1
  | 3 => Config.dies * (64 * 2 ^ 20) / 64
  | 5 => Config.clusters * (4 * 2 ^ 20) / 8 + Config.moreUnits 5
  | 6 => cores * 2 ^ 20 / 4 + Config.moreUnits 6
  | 7 => cores * 2 ^ 20 / 16 + Config.moreUnits 7
  | _ => Config.moreUnits e

/-- Units of an element that a pass samples, and those of them that do not verify (R406 step 4). -/
def scrubSampled (draw pass e : Nat) : Nat :=
  min (elementUnits e) (ceilDiv (elementUnits e) 1024 + Config.scrubSamples (2 * draw + pass) e)
def scrubWrong (draw pass e : Nat) : Nat := min (scrubSampled draw pass e) (Config.scrubMismatches (2 * draw + pass) e)

/-- One element of a scrub (R406 steps 3 and 4): a sample that does not verify has the element done once more. -/
def scrubElement (draw e : Nat) : ElementCount :=
  if scrubWrong draw 0 e = 0 then { written := elementUnits e, sampled := scrubSampled draw 0 e, mismatches := 0 }
  else { written := 2 * elementUnits e, sampled := scrubSampled draw 0 e + scrubSampled draw 1 e,
         mismatches := scrubWrong draw 0 e + scrubWrong draw 1 e }

/-- An element did not verify a second time. -/
def scrubFailed (draw e : Nat) : Bool := scrubWrong draw 0 e != 0 && scrubWrong draw 1 e != 0

/-- STATUS of the completion record: signing exhausted, an element that does not verify twice, or clean. -/
def scrubStatus (s : State) : Nat :=
  if lmsOpen < s.module.security.lmsIndex + 2 then 3 else if (List.range 12).any (scrubFailed s.draws) then 2 else 0

/-- The completion record of the scrub that ends now (R407). -/
def completionOf (s : State) : Completion :=
  let x := s.module.security
  { counter := x.published + 1, trigger := x.scrub.trigger, status := scrubStatus s, nonce := x.scrub.nonce,
    device := (x.identity.map (fun i => Config.deviceId i.1 i.2)).getD 0, start := s.module.scrubStart, finish := s.module.time,
    lease := (x.leaseRecord.map Prod.fst).getD 0, elements := (List.range 12).map (scrubElement s.draws), sig2 := x.sig2 }

/-- Steps 5 and 6: KIND 4 is deleted, the completion record is signed and published, KIND 6 is written with PENDING = 0. -/
def Security.finishScrub (x : Security) (c : Completion) : Security :=
  let x := { x with records := x.records.filter (fun r => r.content.kind != 4) }
  { x.advance.write (.scrub { x.scrub with pending := false }) false with completion := some c, published := c.counter, lastStatus := c.status }

/-! ### Matins (R404, R411) -/

/-- A scrub that did not end clean keeps the module in the base image (R407). -/
def Security.baseOnly (x : Security) : Bool := x.lastStatus != 0

/-- The spares that the sparing map calls for in the memories and that are not in use yet: of a stack domain its pseudo-channel, of a die
one bank, the first that is retired (R400, R411 step 5; log 58). -/
def newSpares (x : Security) (old : List (Nat × Nat)) : List (Nat × Nat) :=
  let channels := (List.range Config.domains).filter (fun d => x.retired.contains (channelPart d) && ! old.contains (0, d))
  let banks := (List.range Config.dies).filterMap (fun d =>
    if old.any (fun e => e.1 == 1 && e.2 / 8 == d) then none
    else ((List.range 8).find? (fun b => x.retired.contains (bankPart d b))).map (8 * d + ·))
  channels.map (fun d => (0, d)) ++ banks.map (fun b => (1, b))

/-- The sparing map is applied: what a spare replaces is clean (R400, R411 step 5, R412). -/
def State.applyMap (s : State) : State :=
  let new := newSpares s.module.security s.module.spares
  let s := new.foldl (fun s e => if e.1 = 0 then healChannel s e.2 else healBank s (e.2 / 8) (e.2 % 8)) s
  s.setModule { s.module with spares := s.module.spares ++ new }

/-- A firmware image that Thadin has signed: all that Matins takes while no identity record is valid (R411 step 3). -/
def Security.thadinImage (x : Security) (b : BootInput) : Bool :=
  (x.signerOf [.thadin] b.runtime).isSome || (x.signerOf [.thadin] x.baseImage).isSome

/-- Matins has neither a valid identity record nor an image that it takes without one: it waits in recovery (R411 step 3). -/
def Security.stranded (x : Security) (b : BootInput) : Bool := x.identity.isNone && ! x.thadinImage b

/-- Step 3: an identity record from Thadin, a base image record and a patch table are taken. -/
def Security.readRecords (x : Security) (b : BootInput) : Security :=
  let x := match b.identity with
    | some i => if x.accepts i.signed .thadin then x.adopt i else x
    | none => x
  let x := match b.base with | some r => x.takeBase r | none => x
  match b.patch with | some g => x.takePatch g | none => x

/-- Whom an image may come from at step 6: with a lease a runtime image from the customer, else from the lease authority or Thadin; without
an identity record from Thadin alone (R404, R411). -/
def Security.signersOf (x : Security) (runtime : Bool) : List Signer :=
  if x.identity.isNone then [.thadin] else if runtime && x.lease.isSome then [.customer] else [.authority, .thadin]

/-- Step 6: the runtime image, else the base image; without either Matins waits in recovery. -/
def Module.chooseImage (m : Module) (b : BootInput) : Module :=
  let x := m.security
  let runtime := if x.baseOnly then none else x.signerOf (x.signersOf true) b.runtime
  match runtime, x.signerOf (x.signersOf false) x.baseImage with
  | some who, _ =>
    { m with boot := 6, recovery := false
             security := { x.raiseLeast who ((b.runtime.map Signed.version).getD 0) with customerFirmware := who == .customer } }
  | none, some who =>
    { m with boot := 6, recovery := false
             security := { x.raiseLeast who ((x.baseImage.map Signed.version).getD 0) with customerFirmware := false } }
  | none, none => { m with boot := 6, recovery := true }

/-- A route's port is up (R401). -/
def Module.routeUp (m : Module) (r : Nat × Nat) : Bool := ! (Sparse.get .start m.ports r.2).down

/-- The next step of Matins after step `n` (R411). -/
def State.bootStep (s : State) (b : BootInput) (n : Nat) : State :=
  let m := s.module
  match n with
  | 0 => s.setModule { m with boot := 1, recovery := ! b.romOk }
  | 1 => s.setModule { m with boot := 2 }
  | 2 => let x := m.security.readRecords b
         s.setModule { m with boot := 3, security := x, recovery := x.stranded b }
  | 3 => if m.security.scrub.pending then s.startScrub { m.security.scrub with trigger := 2 } else s.setModule { m with boot := 4 }
  | 4 => let s := s.applyMap
         s.setModule { s.module with boot := 5 }
  | 5 => s.setModule (m.chooseImage b)
  | 6 => { s with clusters := s.clusters.map (fun (e : Nat × Cluster) => (e.1, { e.2 with service := { e.2.service with image := m.serviceImage } })) }.setModule
           { m with boot := 7, security := { m.security with locked := true } }
  | _ => s.setModule { m with boot := 8, nodeId := b.nodeId % 2 ^ 20, nodes := (b.routes.map Prod.fst).eraseDups,
                              routes := b.routes.filter m.routeUp, apertures := b.apertures }

/-- Matins can go no further: it waits in recovery, a scrub runs, or the hand-off is done. -/
def Module.halted (m : Module) : Bool := m.recovery || m.mstate == .scrubbing || decide (8 ≤ m.boot)

/-- Boot steps one after another, at most `fuel`, up to the step that the power-on reaches. -/
def State.bootOn (s : State) (b : BootInput) : Nat → State
  | 0 => s
  | fuel + 1 => if s.module.halted || decide (b.upTo ≤ s.module.boot) then s else (s.bootStep b s.module.boot).bootOn b fuel

/-- The scrub ends: its record is published, and Matins goes on at step 5. After the scrub of a power-on it verifies the runtime image that
the power-on has found, after any other it boots the base image (R408, R411; log 43). -/
def State.finishScrub (s : State) : State :=
  let c := completionOf s
  let m := s.module
  let s := (({ s with draws := s.draws + 1 }).setModule
    { m with mstate := if c.status = 2 then .failed else .ready, security := m.security.finishScrub c }).tell (.msix 17)
  if s.module.security.stranded m.found then s.setModule { s.module with boot := 3, recovery := true }
  else s.bootOn { m.found with upTo := 8 } 8

/-- A scrub that has run its time completes. -/
def State.scrubDue (s : State) : State :=
  if s.module.mstate = .scrubbing ∧ s.module.scrubEnd ≤ s.module.time then s.finishScrub else s

/-- Power-on runs Matins, from the rails up or from where it stands: at the step it has reached, or at the one where it waits in
recovery for an image it can take (R411). -/
def execPowerOn (b : BootInput) (s : State) : Host.Outcome State Fault Refusal :=
  if s.module.boot = 8 ∨ s.module.mstate = .scrubbing then .next s
  else
    let s := if s.module.boot = 0 then s.resetRegs.setModule { s.resetRegs.module with security := { s.module.security with locked := false } } else s
    let at_ := if s.module.recovery then s.module.boot - 1 else s.module.boot
    .next ((s.setModule { s.module with found := b, boot := at_, recovery := false }).bootOn b 8)

/-! ### Enrolment and leases (R405) -/

/-- Matins takes records: it has read the area, no scrub runs, and it has not handed off and locked the area (R402, R411; log 59). -/
def Module.takesRecords (m : Module) : Bool :=
  decide (3 ≤ m.boot) && m.mstate != .scrubbing && ! m.security.locked && m.security.identity.isSome

/-- A Thadin-signed KIND 3 record that names the module enrols the lease authority: the first, or one of a greater COUNTER. -/
def execLeaseAuthorityEnrol (counter : Nat) (e : EnrolInput) (signed : Signed) (s : State) : Host.Outcome State Fault Refusal :=
  let x := s.module.security
  if ! s.module.takesRecords || ! x.accepts signed .thadin || ! x.identity.any (fun i => i.2 == e.device)
      || ! formOk e.form || x.authority.any (fun a => decide (counter ≤ a.1)) then .next s
  else .next (s.setModule { s.module with security := x.put { counter := counter, form := e.form, content := .authority e.keys, sig1 := true, sig2 := .good } })

/-- The scrub that now starts is followed by the base image, whatever the last power-on found. -/
def State.baseNext (s : State) : State := s.setModule { s.module with found := { s.module.found with runtime := none } }

/-- A KIND 4 record of the lease authority starts a lease, only while none is active; neither after a scrub that did not end clean nor
once the LMS tree is spent (R403, R405, R407). -/
def execLeaseStart (counter : Nat) (l : LeaseInput) (signed : Signed) (s : State) : Host.Outcome State Fault Refusal :=
  let x := s.module.security
  if ! s.module.takesRecords || s.module.recovery || ! x.accepts signed .authority || ! formOk l.form || x.leaseRecord.isSome || x.baseOnly || x.spent then .next s
  else .next (s.setModule { s.module with security := x.put { counter := counter, form := l.form, content := .lease l.id l.keys, sig1 := true, sig2 := .good } })

/-- A lease-end record that names the active lease starts the scrub, with its nonce; Matins must have come to step 3. -/
def execLeaseEnd (lease : Nat) (nonce : BitVec 128) (signed : Signed) (s : State) : Host.Outcome State Fault Refusal :=
  let x := s.module.security
  if s.module.boot < 3 ∨ x.accepts signed .authority = false ∨ x.lease.any (fun l => l.1 == lease) = false then .next s
  else .next (s.baseNext.startScrub { pending := true, trigger := 0, nonce := nonce })

/-! ### Recovery reset (R408) -/

/-- The reset runs Midnight with TRIG 1 and the host's nonce, or restarts a pending scrub with its own. -/
def State.recoveryReset (s : State) : State :=
  let r := s.module.security.scrub
  s.baseNext.startScrub (if r.pending then r else { pending := true, trigger := 1, nonce := s.module.nonce })

/-- A write to the DVSEC word that holds RCVR; configuration space answers from power-on step 2 (R411). -/
def execRecoveryResetDvsec (value : Word) (s : State) : Host.Outcome State Fault Refusal :=
  if ! value.getLsbD 0 || decide (s.module.boot < 2) then .next s else .next s.recoveryReset

/-- RCVR_N held low for at least a microsecond. -/
def execRecoveryResetPin (lowNs : Nat) (s : State) : Host.Outcome State Fault Refusal :=
  if lowNs < 1000 ∨ s.module.boot = 0 then .next s else .next s.recoveryReset

/-- A function-level reset clears the mailbox; it neither scrubs nor clears tenant state (R409). -/
def execFunctionLevelReset (s : State) : Host.Outcome State Fault Refusal := .next (s.setModule { s.module with mailbox := [] })

/-! ### The DVSEC status word (R408) -/

def ScrubState.code : ScrubState → Nat
  | .idle => 0
  | .scrubbing => 1
  | .ready => 2
  | .failed => 3

/-- The word at offset 0x0C as the host reads it. -/
def dvsecStatus (m : Module) : Word :=
  BitVec.ofNat 32 (m.boot * 256 + m.security.lease.isSome.toNat * 128 + m.mstate.code * 16)

/-- Time passes for the whole module: clocks and rails, then a scrub that is due. -/
def State.pass (s : State) (ns : Nat) (cycles : List (Nat × Nat)) : State := (s.tick ns cycles).scrubDue

end Sys2Proof.Machine
end

