-- ==== Sys2Proof/Machine/Privileged.lean ====
section
/-! DEFINITION. The privileged instructions: MOVCR, MOVRC, ERET, SHDW, TLBI and HALT (R379, R381-R386). -/

namespace Sys2Proof.Machine

/-- Issued at user level, a privileged instruction raises PRIV (R381). -/
def checkLevel (c : Issue) : Except Stop Unit := stopIf (! c.wave.handler) (fault Cause.priv 0)

/-- A trap record register by number (R379). -/
def TrapRegs.read (t : TrapRegs) (n : Nat) : Word :=
  match n with
  | 0 => t.tcause
  | 1 => t.tdetail
  | 2 => t.toff
  | 3 => t.tlanes
  | 4 => t.taddr.setWidth 32
  | 5 => (t.taddr >>> 32).setWidth 32
  | 6 => t.rpc
  | 8 => t.hscr0
  | 9 => t.hscr1
  | 10 => t.hscr2
  | 11 => t.hscr3
  | _ => 0

/-- A write to a trap record register; read-only ones discard it (R5, R382). -/
def TrapRegs.write (t : TrapRegs) (n : Nat) (v : Word) : TrapRegs :=
  match n with
  | 6 => { t with rpc := v }
  | 8 => { t with hscr0 := v }
  | 9 => { t with hscr1 := v }
  | 10 => { t with hscr2 := v }
  | 11 => { t with hscr3 := v }
  | _ => t

/-- The register number that A gives, and ILLEGAL for one outside R379. -/
def crNumber (s : State) (c : Issue) (x : Fields) : Nat := uniformVal s c x.a 1
def checkCr (s : State) (c : Issue) (x : Fields) : Except Stop Unit :=
  stopIf (! trapRegNum (crNumber s c x)) (fault Cause.illegal 2)

def execMovcr (x : Fields) (s : State) : Host.Outcome State Fault Refusal :=
  issue s x (fun c => do
    checkLevel c
    checkOperands s c [srcA x 1] x.d 1
    checkPoison s c [srcA x 1]
    if c.active.isEmpty then .ok s
    else
      checkCr s c x
      .ok (s.own c (fun w => w.putResult x.d 1 c.active (guardMark c x (w.trap.read (crNumber s c x)).toNat))))

def execMovrc (x : Fields) (s : State) : Host.Outcome State Fault Refusal :=
  issue s x (fun c => do
    checkLevel c
    checkOperands s c [srcA x 1, srcB x 1] .zero 1
    checkPoison s c [srcA x 1, srcB x 1]
    if c.active.isEmpty then .ok s
    else
      checkCr s c x
      .ok (s.own c (fun w => { w with trap := w.trap.write (crNumber s c x) (BitVec.ofNat 32 (uniformVal s c x.b 1)) })))

/-- ERET: the return from a trap (R383). -/
def execEret (x : Fields) (s : State) : Host.Outcome State Fault Refusal :=
  issueFull s x (fun c => do
    checkLevel c
    let rpc := c.wave.trap.rpc.toNat
    let s ← collective s c (
        if c.active.isEmpty then .ok s
        else if rpc % 12 ≠ 0 ∨ c.grid.codesz ≤ rpc then
          .error (.stay (s.killOwn c (killCause c { code := Cause.nested, detail := BitVec.ofNat 32 Cause.badTarget, addr := 0 }
            Cause.nested (BitVec.ofNat 32 Cause.badTarget))))
        else .ok s)
    .ok (s, if c.active.isEmpty then [] else c.group.map (fun l => (l, rpc))))
    (fun c s => if c.active.isEmpty then s else s.own c (fun w => w.leaveHandler c.group))

/-- One word of the cluster's shadow state (R384). -/
def shadowWord (s : State) (c : Issue) (sel : Nat) : Nat :=
  let k := s.cluster c.block.cluster
  match sel with
  | 0 => k.epoch
  | 1 => c.block.persisted
  | 2 => k.backlog
  | _ => k.stallCount.toNat

def execShdw (x : Fields) (s : State) : Host.Outcome State Fault Refusal :=
  issue s x (fun c => do
    checkLevel c
    checkOperands s c [] x.d 1
    .ok (s.own c (fun w => w.putResult x.d 1 c.active (guardMark c x (shadowWord s c (uniformVal s c x.a 1) % 2 ^ 32)))))

/-- An operation of the wave may still use a translation of the `n` pages from `addr`. -/
def Wave.usesPages (w : Wave) (addr n : Nat) : Bool :=
  w.pend.any (fun q => q.kind == .copy && ! q.left.isEmpty
    || (q.space == .g || q.space == .pv) && q.left.any (fun a => n == 0
          || decide (addr / 2 ^ 14 ≤ a.va / 2 ^ 14 ∧ a.va / 2 ^ 14 < ceilDiv (addr + n * 2 ^ 14) (2 ^ 14))))

/-- The waves that stand in the images of a partition's clusters without power, or stopped (R149, R389, R394). -/
def State.imageWaves (s : State) (p : Part) : List Wave :=
  (s.clusters.filter (fun e => p.hasCluster e.1)).flatMap (fun e => [e.2.imageA, e.2.imageB].flatMap (fun o =>
    match o with | some i => if i.current then i.waves else [] | none => []))

/-- An unperformed access of a partition's waves, in an image among them, may have used a translation that TLBI drops (R385). -/
def usesPages (s : State) (p : Part) (addr n : Nat) : Bool :=
  s.waves.any (fun w => (s.block? w.block).any (fun b => p.hasCluster b.cluster) && w.usesPages addr n)
    || (s.imageWaves p).any (fun w => w.usesPages addr n)

def execTlbi (x : Fields) (s : State) : Host.Outcome State Fault Refusal :=
  issue s x (fun c => do
    checkLevel c
    checkOperands s c [srcA x 2, srcB x 1] .zero 1
    checkPoison s c [srcA x 2, srcB x 1]
    if c.active.isEmpty then .ok s
    else
      let addr := uniformVal s c x.a 2
      let n := uniformVal s c x.b 1
      let s := s.dropTlb c.part.id addr n
      stopIf (usesPages s c.part addr n) (.stay s)
      .ok s)

def execHalt (x : Fields) (s : State) : Host.Outcome State Fault Refusal :=
  issue s x (fun c => do
    checkLevel c
    checkOperands s c [srcA x 1] .zero 1
    checkPoison s c [srcA x 1]
    if c.active.isEmpty then .ok s
    else
      let code := BitVec.ofNat 32 (uniformVal s c x.a 1)
      .error (.stay (s.killOwn c (killCause c { code := Cause.halted, detail := code, addr := 0 } Cause.halted code))))

end Sys2Proof.Machine
end

