-- ==== Sys2Proof/Machine/Faults.lean ====
section
/-! DEFINITION. The control core's commands on open faults and cached translations (R373, R375, R376). -/

namespace Sys2Proof.Machine

/-- The open entry of a fault buffer. -/
def State.faultAt? (s : State) (die idx : Nat) : Option FaultEntry := s.faults.find? (fun f => f.die == die && f.idx == some idx)

/-- A replay closes every open entry of the partition and page, in the buffers of every die; each party then retries (R376). -/
def execFaultReplay (die idx : Nat) (s : State) : Host.Outcome State Fault Refusal :=
  match s.faultAt? die idx with
  | none => .next s
  | some e =>
    let close := (s.faults.filter (fun f => f.idx.isSome && f.part == e.part && f.va / 2 ^ 14 == e.va / 2 ^ 14)).map FaultEntry.party
    .next (s.closeFaults close.contains)

/-- A parked wave takes XLATE at its instruction, with the address in TADDR (R376). -/
def cancelWave (s : State) (u va : Nat) : State :=
  let s := { s with issuing := u }
  match s.headIssue? with
  | none => s
  | some c =>
    let c := match fetchBytes s c with
      | .ok bs => (s.issue? (wordGuard (wordOfBytes bs))).getD c
      | .error _ => c
    s.raise c { code := Cause.xlate, detail := 0, addr := BitVec.ofNat 64 va } c.pc

/-- A paused copy, one that stands in the image of a stopped cluster among them, fails its tag, or, for a packet, its queue (R376). -/
def cancelCopy (s : State) (id va : Nat) : State :=
  match s.anyCopy? id with
  | none => s
  | some k => if k.kind == .packet || k.kind == .wsload then abortPacket s k 10 else failCopy s k (.xlate (BitVec.ofNat 64 va))

/-- The queue faults with REASON 10 at the packet it stands at (R376, R350). -/
def cancelQueue (s : State) (part slot : Nat) : State :=
  s.faultHead part slot 10

/-- A cancel closes the named entry only (R376). -/
def execFaultCancel (die idx : Nat) (s : State) : Host.Outcome State Fault Refusal :=
  match s.faultAt? die idx with
  | none => .next s
  | some e =>
    let s := s.closeFaults (· == e.party)
    .next (match e.party with
      | .wave u => cancelWave s u e.va
      | .copy k => cancelCopy s k e.va
      | .queue p slot => cancelQueue s p slot)

/-- The control core's own TLBI drops the entries; it has completed, as the core is told, once no access in flight may have used one of
them, and does so again until then (R373, R385; log 69). -/
def execCcTlbi (p addr n : Nat) (s : State) : Host.Outcome State Fault Refusal :=
  match s.part? p with
  | none => .next s
  | some q =>
    let s := s.dropTlb p addr n
    .next (if usesPages s q addr n then s else s.tell (.tlbiDone p addr n))

end Sys2Proof.Machine
end

