-- ==== Sys2Proof/Machine/Registers.lean ====
section
/-! DEFINITION. Register writes by address, and the debugger (R5, R214, R351-R353, R358, R370, R375, R399, R408, R409). -/

namespace Sys2Proof.Machine

/-- The partition behind a partition or translation block: one that a module power loss took and that has not been created again is none
(R393, R395). -/
def State.liveReg (s : State) (p : Nat) : Option Part := (s.part? p).filter (fun q => ! q.lost || q.recreated)

/-- Let an event act, and keep its state. -/
def after (o : Host.Outcome State Fault Refusal) (s : State) : State :=
  match o with
  | .next s' => s'
  | _ => s

/-! ### The cluster block (R351) -/

/-- A write to word `off` of a cluster's block: RBL, the limits, VTGT; the other words are read-only. -/
def writeClusterReg (s : State) (cl off : Nat) (v : Word) : State :=
  match off with
  | 0x00 => after (execRblWrite cl (bits v.toNat 0 7) s) s
  | 0x04 =>
    let s := after (execGckLimitWrite cl 0 (bits v.toNat 16 12) s) s
    after (execGckLimitWrite cl 1 (bits v.toNat 0 10) s) s
  | 0x08 =>
    let s := after (execGckLimitWrite cl 5 (bits v.toNat 20 9) s) s
    let s := after (execGckLimitWrite cl 4 (bits v.toNat 16 4) s) s
    after (execGckLimitWrite cl 3 (bits v.toNat 0 9) s) s
  | 0x0C => after (execVtgtWrite cl (bits v.toNat 10 6) (bits v.toNat 0 10) s) s
  | _ => s

/-! ### The partition block (R352) -/

def Budget.write (b : Budget) (off : Nat) (v : Word) : Budget :=
  match off with
  | 0x00 => { b with clus := min (bits v.toNat 0 8) 128 }
  | 0x04 => { b with tok := bits v.toNat 0 25 }
  | 0x08 => { b with sus := min (bits v.toNat 0 13) 3600 }
  | 0x0C => { b with req := min (bits v.toNat 0 13) 800 }
  | _ => b

/-! ### The module block (R353, R358) -/

/-- An activity budget within its range. -/
def Activity.write (a : Activity) (off v : Nat) : Activity :=
  match off with
  | 0x04 => { a with wb := max 16 (min v 1024) }
  | 0x08 => { a with sc := v }
  | 0x0C => { a with pw := max 64 v }
  | 0x10 => { a with sv := max 512 (min v 16383) }
  | 0x14 => { a with db := v }
  | _ => a

/-! ### The translation block (R370) -/

/-- Replace the low or the high half of a 64-bit register, whose low `zeros` bits read as zero. -/
def putHalf (old : DWord) (high : Bool) (v : Word) (zeros : Nat) : DWord :=
  let n := if high then v.toNat * 2 ^ 32 + old.toNat % 2 ^ 32 else old.toNat / 2 ^ 32 * 2 ^ 32 + v.toNat
  BitVec.ofNat 64 (n / 2 ^ zeros * 2 ^ zeros)

def Xlate.write (x : Xlate) (off : Nat) (v : Word) : Xlate :=
  match off with
  | 0x00 => { x with ptroot := putHalf x.ptroot false v 14 }
  | 0x04 => { x with ptroot := putHalf x.ptroot true v 14 }
  | 0x08 => { x with hbase := putHalf x.hbase false v 6 }
  | 0x0C => { x with hbase := putHalf x.hbase true v 6 }
  | 0x10 => { x with hsize := v }
  | 0x18 => { x with pvbase := putHalf x.pvbase false v 21 }
  | 0x1C => { x with pvbase := putHalf x.pvbase true v 21 }
  | 0x20 => { x with save := putHalf x.save false v 14 }
  | 0x24 => { x with save := putHalf x.save true v 14 }
  | 0x28 => { x with frbase := putHalf x.frbase false v 10 }
  | 0x2C => { x with frbase := putHalf x.frbase true v 10 }
  | _ => x

/-- The control core writes the block only while the partition has no resident block. -/
def writeXlate (s : State) (p off : Nat) (v : Word) : State :=
  match s.liveReg p with
  | none => s
  | some q => if s.blocks.any (fun b => q.hasCluster b.cluster) then s else s.onPart p (fun x => { x with xlate := x.xlate.write off v })

/-! ### The host's registers (R408, R409) -/

/-- NONCE0-NONCE3, NONCE0 holding the low bytes; a write while a scrub runs is discarded. -/
def writeNonce (m : Module) (i : Nat) (v : Word) : Module :=
  if m.mstate = .scrubbing then m
  else
    let n := m.nonce.toNat
    let hi := n / 2 ^ (32 * i + 32) * 2 ^ (32 * i + 32)
    { m with nonce := BitVec.ofNat 128 (hi + v.toNat * 2 ^ (32 * i) + n % 2 ^ (32 * i)) }

/-- Four bytes of the BAR2 mailbox; writes are discarded until the hand-off (R411). -/
def writeMailbox (s : State) (off : Nat) (v : Word) : State :=
  if ! s.hostUp then s
  else s.setModule { s.module with mailbox :=
    ((natToBytes 4 v.toNat).mapIdx (fun i b => (off + i, b))).foldl (fun m e => Sparse.set 0 m e.1 e.2) s.module.mailbox }

/-- Where the model puts the DVSEC registers, BAR2 and BAR0, which lie in no control-core space (log 45). -/
def dvsecAt : Nat := 2 ^ 40
def mailboxAt : Nat := 2 ^ 41
def bar0At : Nat := 2 ^ 42

/-- A word of BAR0 is written: a doorbell's WRIDX, each alone in its page; the rest of BAR0 is read-only (R322, R340). -/
def writeBar0 (s : State) (off : Nat) (v : Word) : State :=
  if 0x1000000 ≤ off ∧ off < 0x1400000 ∧ off % 0x1000 = 0 then
    after (execDoorbellWrite ((off - 0x1000000) / 0x40000) ((off - 0x1000000) % 0x40000 / 0x1000) v s) s
  else s

/-! ### One write (R5) -/

/-- A word written at an address: the register there takes it under its access code; elsewhere the write is discarded. -/
def writeRegister (s : State) (a : Nat) (v : Word) : State :=
  if a % 4 ≠ 0 then s
  else if bar0At ≤ a then writeBar0 s (a - bar0At) v
  else if mailboxAt ≤ a then (if a < mailboxAt + 2 ^ 24 then writeMailbox s (a - mailboxAt) v else s)
  else if dvsecAt ≤ a then
    (if a = dvsecAt + 0x0C then after (execRecoveryResetDvsec v s) s
     else if dvsecAt + 0x10 ≤ a ∧ a < dvsecAt + 0x20 then s.setModule (writeNonce s.module ((a - dvsecAt - 0x10) / 4) v)
     else s)
  else if a = 0x25000040 then after (execErrorCountClear v s) s
  else if a / 2 ^ 24 = 0x24 then
    let die := a % 2 ^ 24 / 2 ^ 16
    (if a % 2 ^ 16 = 0x2000 ∧ die < Config.dies then
      after (if v.getLsbD 31 then execFaultCancel die (bits v.toNat 0 9) s else execFaultReplay die (bits v.toNat 0 9) s) s
     else s)
  else if a / 2 ^ 24 = 0x23 then writeXlate s (a % 2 ^ 24 / 64) (a % 64) v
  else if a / 2 ^ 24 = 0x22 then
    (if a % 2 ^ 24 < 0x40 then s.setModule { s.module with activity := s.module.activity.write (a % 64) (bits v.toNat 0 16) } else s)
  else if a / 2 ^ 24 = 0x21 then
    (if (s.liveReg (a % 2 ^ 24 / 64)).isNone then s else s.onPart (a % 2 ^ 24 / 64) (fun p => { p with budget := p.budget.write (a % 64) v }))
  else if a / 2 ^ 24 = 0x20 then
    (if a % 2 ^ 24 / 64 < Config.clusters then writeClusterReg s (a % 2 ^ 24 / 64) (a % 64) v else s)
  else s

def execRegisterWrite (addr : Nat) (value : Word) (s : State) : Host.Outcome State Fault Refusal := .next (writeRegister s addr value)

/-! ### The debugger (R214, R358) -/

/-- The wave runs in the partition. -/
def Part.owns (s : State) (p : Part) (w : Wave) : Bool := (s.block? w.block).any (fun b => p.hasCluster b.cluster)

/-- What a session asks for: stopping, resuming and reading name one wave of the partition; a session that ends leaves no wave
stopped. -/
def debug (s : State) (p : Part) (r : DebugRequest) : State :=
  let one := fun (u : Nat) (f : Wave → Wave) => match s.wave? u with
    | none => s
    | some w => if p.owns s w then s.setWave (f w) else s
  match r with
  | .attach => s.onPart p.id (fun q => { q with debugger := true })
  | .detach =>
    { s with waves := s.waves.map (fun w => if p.owns s w then { w with stopped := false } else w) }.onPart p.id
      (fun q => { q with debugger := false })
  | .stop u => one u (fun w => { w with stopped := true })
  | .resume u => one u (fun w => { w with stopped := false })
  | .read _ => s

/-- One debugger access, within ACTDB; only attaching needs no session. -/
def execDebuggerAccess (p : Nat) (req : DebugRequest) (s : State) : Host.Outcome State Fault Refusal :=
  match s.part? p with
  | none => .next s
  | some q =>
    if s.module.activity.db ≤ q.debugUsed || (! q.debugger && req != .attach) then .next s
    else .next ((debug s q req).onPart p (fun q => { q with debugUsed := q.debugUsed + 1 }))

end Sys2Proof.Machine
end

