-- ==== Sys2Proof/Machine/ControlReads.lean ====
section
/-! DEFINITION. What a read of a control register gives: the control core's blocks, queue control blocks, BAR0, BAR2 and the DVSEC
(R5, R6, R322, R324, R340, R351-R353, R360, R370, R375, R399, R407-R409, R411). Reserved fields and write-only fields read zero. -/

namespace Sys2Proof.Machine

/-- A word from its fields: lowest bit, width, value. Every other bit is zero. -/
def fieldsWord (fs : List (Nat × Nat × Nat)) : Word := BitVec.ofNat 32 ((fs.map (fun f => f.2.2 % 2 ^ f.2.1 * 2 ^ f.1)).sum)

/-- The low or the high half of a 64-bit register. -/
def halfOf (v : DWord) (high : Bool) : Word := if high then (v >>> 32).setWidth 32 else v.setWidth 32

/-! ### Clusters (R351, R360) -/

/-- Nominal oscillator frequency in MHz at a rail voltage in mV: linear between 450, 600 and 780 mV. -/
def nominalFreq (mv : Nat) : Nat := if mv ≤ 600 then 350 + 3 * (mv - 450) else 800 + (mv - 600) * 20 / 9

/-- A cluster's frequency: within 5 % of the line, as its die has it. -/
def State.freq (s : State) (cl : Nat) : Nat := nominalFreq (s.cluster cl).volt.vnow * (950 + Config.freqSkew (dieOfCluster cl) % 101) / 1000

def VoltOutcome.code : VoltOutcome → Nat
  | .done => 0
  | .superseded => 1
  | .clamped => 2

/-- A word of the cluster block; the limits read as they were written (R55). -/
def readClusterReg (s : State) (cl off : Nat) : Word :=
  let c := s.cluster cl
  match off with
  | 0x00 => fieldsWord [(16, 7, (s.residents cl).length), (0, 7, c.rbl)]
  | 0x04 => fieldsWord [(16, 12, c.gck.written.reg), (0, 10, c.gck.written.spm)]
  | 0x08 => fieldsWord [(20, 9, c.gck.written.tag), (16, 4, c.gck.written.mxe), (0, 9, c.gck.written.acc)]
  | 0x0C => fieldsWord [(10, 6, c.volt.rid), (0, 10, c.volt.mv)]
  | 0x10 => fieldsWord [(26, 6, c.volt.drid), (24, 2, c.volt.out.code), (23, 1, c.volt.ramping.toNat), (11, 12, s.freq cl),
                        (0, 10, c.volt.vnow)]
  | 0x14 => fieldsWord [(0, 10, c.volt.ceil)]
  | _ => 0

/-! ### Partitions (R352, R370) -/

def readPartReg (s : State) (p : Part) (off : Nat) : Word :=
  let b := p.budget
  match off with
  | 0x00 => fieldsWord [(0, 8, b.clus)]
  | 0x04 => fieldsWord [(0, 25, b.tok)]
  | 0x08 => fieldsWord [(0, 13, b.sus)]
  | 0x0C => fieldsWord [(0, 13, b.req)]
  | 0x10 => fieldsWord [(31, 1, b.isOpen.toNat), (29, 2, b.tight), (16, 13, b.pused), (8, 8, s.clustersUsed p)]
  | 0x14 => fieldsWord [(0, 25, b.hused)]
  | 0x18 => fieldsWord [(0, 13, b.peak)]
  | 0x20 => BitVec.ofNat 32 p.epoch
  | 0x24 => BitVec.ofNat 32 (p.epoch / 2 ^ 32)
  | 0x28 => fieldsWord [(0, 7, p.wssz)]
  | _ => 0

/-- The partition block of a number without a partition: Reset values (R7, R352). -/
def readNoPart (off : Nat) : Word :=
  match off with
  | 0x04 => fieldsWord [(0, 25, (Budget.start 0).tok)]
  | 0x10 => fieldsWord [(31, 1, (Budget.start 0).isOpen.toNat)]
  | _ => 0

def Xlate.read (x : Xlate) (off : Nat) : Word :=
  match off with
  | 0x00 => halfOf x.ptroot false
  | 0x04 => halfOf x.ptroot true
  | 0x08 => halfOf x.hbase false
  | 0x0C => halfOf x.hbase true
  | 0x10 => x.hsize
  | 0x18 => halfOf x.pvbase false
  | 0x1C => halfOf x.pvbase true
  | 0x20 => halfOf x.save false
  | 0x24 => halfOf x.save true
  | 0x28 => halfOf x.frbase false
  | 0x2C => halfOf x.frbase true
  | 0x30 => x.fridx
  | _ => 0

/-! ### The module (R353, R358) -/

def Module.readReg (m : Module) (off : Nat) : Word :=
  let t := Sparse.get Thermal.start m.thermal ((off - 0x20) / 4)
  match off with
  | 0x00 => fieldsWord [(31, 1, m.pkon.toNat), (16, 10, m.allow), (0, 13, m.pmod)]
  | 0x04 => fieldsWord [(0, 16, m.activity.wb)]
  | 0x08 => fieldsWord [(0, 16, m.activity.sc)]
  | 0x0C => fieldsWord [(0, 16, m.activity.pw)]
  | 0x10 => fieldsWord [(0, 16, m.activity.sv)]
  | 0x14 => fieldsWord [(0, 16, m.activity.db)]
  | 0x30 => fieldsWord [(31, 1, m.lock.toNat), (0, 16, (m.offs % 2 ^ 16).toNat)]
  | 0x20 | 0x24 | 0x28 | 0x2C => fieldsWord [(8, 3, t.step), (0, 8, t.temp)]
  | _ => 0

/-! ### Fault buffers and error counts (R375, R399) -/

/-- Word `k` of an entry of a fault buffer; an entry that is not open reads zero. -/
def readFault (s : State) (die idx k : Nat) : Word :=
  match s.faultAt? die idx with
  | none => 0
  | some f => match k with
    | 0 => fieldsWord [(31, 1, 1), (27, 4, f.part), (25, 2, f.kind), (18, 7, f.cluster), (16, 2, f.core), (10, 6, f.slot)]
    | 1 => BitVec.ofNat 32 f.va
    | 2 => BitVec.ofNat 32 (f.va / 2 ^ 32)
    | _ => f.seq

def readErrors (m : Module) (place : Nat) : Word :=
  let c := Sparse.get ErrorCount.start m.errors place
  if place < 7 then fieldsWord [(16, 16, c.corr), (0, 16, c.unc)] else 0

/-! ### Queue control blocks (R324) -/

/-- Word `k` of a slot's control block. -/
def readQcb (s : State) (p : Part) (slot k : Nat) : Word :=
  let q := p.queue slot
  match k with
  | 0 => q.cfg.seq
  | 1 => halfOf q.cfg.rbase false
  | 2 => halfOf q.cfg.rbase true
  | 3 => fieldsWord [(31, 1, q.cfg.en.toNat), (16, 5, q.cfg.log2n), (0, 16, q.cfg.ticket)]
  | 4 => q.cfg.owner
  | 8 => q.rdidx
  | 9 => fieldsWord [(0, 3, queueState s p slot)]
  | 10 => fieldsWord [(0, 8, q.reason)]
  | 11 => halfOf q.faddr false
  | 12 => halfOf q.faddr true
  | 13 => q.pass
  | _ => 0

/-! ### The host link (R322, R340, R407-R409, R411) -/

/-- BAR0: doorbells, whose upper word reads zero, and timelines. -/
def readBar0 (s : State) (off : Nat) : Word :=
  if 0x1000000 ≤ off ∧ off < 0x1400000 then
    match s.part? ((off - 0x1000000) / 0x40000) with
    | some p => if off % 0x1000 = 0 then (p.queue ((off - 0x1000000) % 0x40000 / 0x1000)).wridx else 0
    | none => 0
  else if 0x2000000 ≤ off ∧ off < 0x2010000 then
    match s.part? ((off - 0x2000000) / 0x1000) with
    | some p => if off % 0x1000 < 0x800 then halfOf (p.timeline (off % 0x1000 / 8)) (decide (off % 8 = 4)) else 0
    | none => 0
  else 0

/-- Bytes of one element of the completion record: units written, units sampled, mismatches. -/
def ElementCount.bytes (e : ElementCount) : List Byte := natToBytes 8 e.written ++ natToBytes 4 e.sampled ++ natToBytes 4 e.mismatches

/-- The completion record's payload (R407). -/
def Completion.payload (c : Completion) : List Byte :=
  natToBytes 4 c.trigger ++ natToBytes 4 c.status ++ natToBytes 16 c.nonce.toNat ++ natToBytes 48 c.device.toNat ++ natToBytes 8 c.start
    ++ natToBytes 8 c.finish ++ natToBytes 4 c.lease ++ natToBytes 4 0 ++ c.elements.flatMap ElementCount.bytes

/-- The completion record as the host reads it: the header of R402 with KIND 0x100, the payload and the signatures. -/
def Completion.bytes (c : Completion) : List Byte :=
  recordHeader { magic := recordMagic, version := 1, len := 0x120 } 0x100 c.counter ++ c.payload ++ signatureBytes c.counter c.sig2

/-- BAR2: the completion record at offset 0, as long as there is one, and the mailbox. -/
def readBar2 (s : State) (off : Nat) : Word :=
  let r := match s.module.security.completion with | some c => c.bytes | none => []
  BitVec.ofNat 32 (bytesToNat ((List.range 4).map (fun i => r.getD (off + i) (Sparse.get 0 s.module.mailbox (off + i)))))

/-- The DVSEC, once configuration space answers: its header, the status word, the nonce. -/
def readDvsec (m : Module) (off : Nat) : Word :=
  if m.boot < 2 then BitVec.allOnes 32
  else match off with
    | 0x00 | 0x04 => Config.dvsecHeader off
    | 0x08 => 1
    | 0x0C => dvsecStatus m
    | 0x10 | 0x14 | 0x18 | 0x1C => (m.nonce >>> (8 * (off - 0x10))).setWidth 32
    | _ => 0

/-! ### One read (R5, R6) -/

/-- The word at an address; what no register holds reads zero. -/
def readRegister (s : State) (a : Nat) : Word :=
  if a % 4 ≠ 0 then 0
  else if bar0At ≤ a then (if a < bar0At + 2 ^ 26 then (if s.hostUp then readBar0 s (a - bar0At) else BitVec.allOnes 32) else 0)
  else if mailboxAt ≤ a then (if a < mailboxAt + 2 ^ 24 then (if s.hostUp then readBar2 s (a - mailboxAt) else BitVec.allOnes 32) else 0)
  else if dvsecAt ≤ a then readDvsec s.module (a - dvsecAt)
  else
    let o := a % 2 ^ 24
    match a / 2 ^ 24 with
    | 0x20 => if o / 64 < Config.clusters then readClusterReg s (o / 64) (o % 64) else 0
    | 0x21 => if o / 64 < 16 then (match s.liveReg (o / 64) with | some p => readPartReg s p (o % 64) | none => readNoPart (o % 64)) else 0
    | 0x22 => if o < 64 then s.module.readReg o else 0
    | 0x23 => match s.liveReg (o / 64) with | some p => p.xlate.read (o % 64) | none => 0
    | 0x24 => if o % 2 ^ 16 < 0x2000 ∧ o / 2 ^ 16 < Config.dies then readFault s (o / 2 ^ 16) (o % 2 ^ 16 / 16) (o % 16 / 4) else 0
    | 0x25 => readErrors s.module (o / 4)
    | _ => 0

end Sys2Proof.Machine
end

