-- ==== Sys2Proof/Machine/Matrix.lean ====
section
/-! DEFINITION. The matrix engine: parameter blocks, MXA, its steps, and MXQ (R109-R114, R258-R270). -/

namespace Sys2Proof.Machine

/-! ### The parameter block (R260-R263) -/

/-- Bits `lo` upward of a word of the block. -/
def pbField (pb : List Word) (w lo len : Nat) : Nat := (pb.getD w 0).toNat / 2 ^ lo % 2 ^ len

def pbM (pb : List Word) : Nat := pbField pb 0 0 16
def pbN (pb : List Word) : Nat := pbField pb 0 16 16
def pbK (pb : List Word) : Nat := pbField pb 1 0 25
/-- The accumulator exponent E. -/
def pbE (pb : List Word) : BitVec 8 := BitVec.ofNat 8 (pbField pb 2 24 8)
def pbInit (pb : List Word) : Bool := pbField pb 2 21 1 == 1
def pbCtx (pb : List Word) : Nat := pbField pb 2 20 1
def pbAcc (pb : List Word) : Nat := pbField pb 2 12 6
/-- BV, and the barrier it signals. -/
def pbSignals (pb : List Word) : Bool := pbField pb 3 6 1 == 1
def pbBar (pb : List Word) : Nat := pbField pb 3 0 6
/-- Output sub-tiles T, sub-tile columns, and K-chunks J (R264). -/
def pbCols (pb : List Word) : Nat := ceilDiv (pbN pb) 32
def pbT (pb : List Word) : Nat := ceilDiv (pbM pb) 32 * pbCols pb
def pbJ (pb : List Word) : Nat := ceilDiv (pbK pb) 64

/-- One operand: its source (0 registers, 1 `.sp`, 2 `.csp`, 3 weight store), descriptor, format slot, scale offset, rows, and
the weight-store byte that offsets count from. -/
structure Side where
  src : Nat
  base : Nat
  high : Nat
  slot : Nat
  scale : Nat
  rows : Nat
  origin : Nat
  deriving DecidableEq, Repr

def sideA (pb : List Word) : Side :=
  { src := pbField pb 2 0 2, base := pbField pb 4 0 32, high := pbField pb 5 0 32, slot := pbField pb 2 4 3,
    scale := pbField pb 9 0 32, rows := pbM pb, origin := 0 }

def sideB (pb : List Word) : Side :=
  { src := pbField pb 2 2 2, base := pbField pb 6 0 32, high := pbField pb 7 0 32, slot := pbField pb 2 8 3,
    scale := pbField pb 10 0 32, rows := pbN pb, origin := pbField pb 8 0 32 * 4096 }

/-- Bank rotation, tile pitch in bytes, row pitch (R261). -/
def Side.rot (d : Side) : Nat := d.high / 2 ^ 29
def Side.pitch (d : Side) : Nat := d.high / 2 ^ 16 % 2 ^ 12 * 64
def Side.rowPitch (d : Side) : Nat := d.high % 2 ^ 16
/-- First V register of a register-sourced operand, and how many it takes (R262). -/
def Side.reg (d : Side) : Nat := d.base % 2 ^ 8
def sideRegs (k w : Nat) : Nat := ceilDiv (k * w) 32

/-- Bytes of one row of a slab, of `w`-bit elements. -/
def slabRow (w : Nat) : Nat := 8 * w

/-- The rotation of row `m` in bytes. -/
def Side.shift (d : Side) (w m : Nat) : Nat := m * d.rot % 8 * (slabRow w / 8)

/-- The distance of element (m, k) from the base (R261). -/
def Side.offset (d : Side) (w m k : Nat) : Nat :=
  k / 64 * d.pitch + m * d.rowPitch + (k % 64 * w / 8 + d.shift w m) % slabRow w

/-- The descriptor of a slot. -/
def formatWord (g : Grid) (slot : Nat) : Word := g.formats.getD slot 0

/-- Width of a slot's elements; 0 for a slot that names no format. -/
def slotWidth (w : Word) : Nat := ((elemFmt (slotElem w)).map Fmt.width).getD 0

/-! ### The checks of MXA (R259, R264) -/

/-- The element pairs that MXA admits. -/
def pairListed (a b : Nat) : Bool :=
  match a, b with
  | 0x06, 0x0B | 0x08, 0x0B => true
  | 0x04, 0x0A | 0x05, 0x0A | 0x07, 0x0A => true
  | 0x04, 0x04 | 0x04, 0x05 | 0x05, 0x04 | 0x05, 0x05 => true
  | 0x07, 0x07 | 0x02, 0x02 | 0x03, 0x03 | 0x01, 0x01 | 0x0D, 0x0D => true
  | _, _ => false

/-- A scaled slot where R259 forbids one. -/
def scaleForbidden (w : Word) (d : Side) : Bool :=
  slotScale w == 1 && (d.src == 0 || [0x01, 0x0D, 0x03, 0x02].contains (slotElem w))

/-- The slot that a FORMAT fault names (R264 step 5). -/
def badFormat (g : Grid) (pb : List Word) : Option Nat :=
  let a := sideA pb
  let b := sideB pb
  let fa := formatWord g a.slot
  let fb := formatWord g b.slot
  if fa = 0 then some a.slot
  else if fb = 0 then some b.slot
  else if ! pairListed (slotElem fa) (slotElem fb) then some a.slot
  else if scaleForbidden fa a then some a.slot
  else if scaleForbidden fb b then some b.slot
  else none

/-- The low descriptor word breaks R262's limits. -/
def badLow (g : Grid) (pb : List Word) (d : Side) : Bool :=
  let n := sideRegs (pbK pb) (slotWidth (formatWord g d.slot))
  d.src == 0 && (d.base / 2 ^ 8 != 0 || decide (32 < d.rows) || decide (256 < d.reg + n) || decide (64 < n))

/-- The high descriptor word breaks R261 or R262. -/
def badHigh (d : Side) : Bool :=
  if d.src = 0 then d.high != 0 else d.high.testBit 28 || d.rowPitch % 4 != 0

/-- BV and BAR (R260, R264 step 3). -/
def badBar (g : Grid) (pb : List Word) : Bool :=
  if pbSignals pb then ! (pbBar pb / 16 == 1 || pbBar pb / 16 == 2) || g.count (pbBar pb) == 0 else pbBar pb != 0

/-- START: reserved bits, BUSY, and the last step (R260, R266). -/
def badStart (pb : List Word) : Bool :=
  pbField pb 14 19 8 != 0 || decide (pbT pb ≤ pbField pb 14 27 5) || decide (pbJ pb ≤ pbField pb 14 0 19)

/-- Whether each of the sixteen words breaks a rule, in order. -/
def badWords (g : Grid) (pb : List Word) : List Bool :=
  let a := sideA pb
  let b := sideB pb
  let unscaled := fun (d : Side) => slotScale (formatWord g d.slot) != 1
  let zero_ := fun (i : Nat) => pb.getD i 0 != 0
  [ decide (pbM pb < 1 ∨ 128 < pbM pb ∨ pbN pb < 1 ∨ 128 < pbN pb),
    pbField pb 1 25 7 != 0 || decide (pbK pb < 1 ∨ 2 ^ 24 < pbK pb),
    pbField pb 2 22 2 != 0 || pbField pb 2 18 2 != 0 || pbField pb 2 11 1 != 0 || pbField pb 2 7 1 != 0 || a.src == 3
      || decide (64 < pbAcc pb + pbT pb),
    pbField pb 3 7 25 != 0 || badBar g pb,
    badLow g pb a, badHigh a, badLow g pb b, badHigh b,
    if b.src = 3 then badHandle (pbField pb 8 0 32) else zero_ 8,
    unscaled a && zero_ 9, unscaled b && zero_ 10, zero_ 11, zero_ 12, zero_ 13, badStart pb, zero_ 15 ]

/-- The index of the first offending word. -/
def badWord (g : Grid) (pb : List Word) : Option Nat := (List.range 16).find? (fun i => (badWords g pb).getD i false)

/-- The greatest distance from the base that the operand reaches: the last whole slab and the last slab (R261). -/
def Side.reach (d : Side) (w k : Nat) : Nat :=
  let j := ceilDiv k 64
  let s := slabRow w
  let len := ceilDiv ((k - 64 * (j - 1)) * w) 8
  let whole := if j < 2 then 0 else (j - 2) * d.pitch + (d.rows - 1) * d.rowPitch + (s - 1)
  let row := fun (m : Nat) => m * d.rowPitch + (if d.shift w m + len ≤ s then d.shift w m + len - 1 else s - 1)
  (List.range d.rows).foldl (fun n m => max n ((j - 1) * d.pitch + row m)) whole

/-- A range from `base` up to `base + reach` lies inside its space. -/
def extentOk (s : State) (c : Issue) (src base reach : Nat) : Bool :=
  match src with
  | 1 => decide (base + reach < c.block.alloc.spm * Config.spmBytes)
  | 2 => (cspOwner s c base).any (fun b => decide (cspOffset base + reach < b.alloc.csp * Config.cspBytes))
  | _ => decide (base + reach < c.part.wsBytes)

/-- Bytes of scales of one row (R263). -/
def scaleRow (pb : List Word) (w : Word) : Nat := ceilDiv (pbK pb) (2 ^ slotBlk w)

/-- R261 and R262 for one operand's elements. -/
def checkSide (s : State) (c : Issue) (pb : List Word) (d : Side) : Except Stop Unit :=
  let w := slotWidth (formatWord c.grid d.slot)
  if d.src = 0 then
    stopIf (decide (Config.regsPerGranule * c.wave.regAlloc < d.reg + sideRegs (pbK pb) w)) (fault Cause.grantRange 0)
  else stopIf (! extentOk s c d.src (d.origin + d.base) (d.reach w (pbK pb)))
    (fault (if d.src = 3 then Cause.wsRange else Cause.grantRange) 0)

/-- The scale range of one operand (R263). -/
def checkScale (s : State) (c : Issue) (pb : List Word) (d : Side) : Except Stop Unit :=
  let f := formatWord c.grid d.slot
  stopIf (slotScale f == 1 && ! extentOk s c d.src (d.origin + d.scale) (d.rows * scaleRow pb f - 1))
    (fault (if d.src = 3 then Cause.wsRange else Cause.grantRange) 0)

/-- The fragment registers of an operand. -/
def fragments (g : Grid) (pb : List Word) (d : Side) : List Nat :=
  if d.src = 0 then (List.range (sideRegs (pbK pb) (slotWidth (formatWord g d.slot)))).map (d.reg + ·) else []

/-- Earlier writes of the wave into scratchpads that are still under way: the engine reads after them (R268). -/
def spWritesPending (w : Wave) : Bool :=
  w.pend.any (fun p => ! p.left.isEmpty && (p.kind == .store || p.kind == .copy) && (p.space == .sp || p.space == .csp))

/-- Step 2 of R264 reads the sixteen words. -/
def readBlock (s : State) (c : Issue) (off : Nat) : List Word :=
  (List.range 16).map (fun i => BitVec.ofNat 32 (bytesToNat ((List.range 4).map (fun j => s.spByte false c.block.uid (off + 4 * i + j)))))

/-- Steps 3 to 6 of R264, on a block that has been captured; log 68 orders the ranges of step 6. -/
def checkBlock (s : State) (c : Issue) (pb : List Word) : Except Stop Unit := do
  match badWord c.grid pb with
  | some i => .error (fault Cause.mxParam i)
  | none => .ok ()
  stopIf (decide (c.block.alloc.mxe ≤ pbCtx pb ∨ c.block.alloc.acc < pbAcc pb + pbT pb)) (fault Cause.grantRange 0)
  stopIf (c.block.task && pbSignals pb) (fault Cause.barrierMember (pbBar pb))
  match badFormat c.grid pb with
  | some f => .error (fault Cause.format f)
  | none => .ok ()
  checkSide s c pb (sideA pb)
  checkSide s c pb (sideB pb)
  checkScale s c pb (sideA pb)
  checkScale s c pb (sideB pb)

/-- Step 2 of R264: the offset is checked and the block is read, once; an MXA that waits at step 7 keeps what it has captured. -/
def capture (s : State) (c : Issue) (x : Fields) : Except Stop (List Word) :=
  match c.wave.wait with
  | some (.matrix pb) => .ok pb
  | _ => do
    let off := uniformVal s c x.a 1
    stopIf (off % 64 != 0) (faultAt Cause.misaligned 0 off)
    stopIf (decide (c.block.alloc.spm * Config.spmBytes < off + 64)) (fault Cause.grantRange 0)
    stopIf (spWritesPending c.wave) .wait
    stopIf ((List.range 16).any (fun i => s.sramIsBad c.block.uid false (off + 4 * i))) (uncorrectableAt s c 3 off)
    .ok (readBlock s c off)

/-- The accumulator slots that an operation names. -/
def pbSlots (pb : List Word) : List Nat := (List.range (pbT pb)).map (pbAcc pb + ·)

/-- Step 7 of R264. -/
def mxWaits (c : Issue) (pb : List Word) : Bool :=
  decide (63 ≤ c.wave.counter 5) || (c.block.ctx (pbCtx pb)).op.isSome || (pbSlots pb).any (fun n => (c.block.acc n).busy)
    || ((fragments c.grid pb (sideA pb)) ++ (fragments c.grid pb (sideB pb))).any (fun r =>
         c.wave.liveLanes.any (fun l => ! (c.wave.readV r l).full))

/-- The registers that an operation locks (R264). -/
def mxLocks (g : Grid) (pb : List Word) : List Lock :=
  [sideA pb, sideB pb].filterMap (fun d =>
    if d.src = 0 then some { ctx := pbCtx pb, base := d.reg, count := sideRegs (pbK pb) (slotWidth (formatWord g d.slot)) } else none)

/-- Start an operation: locks, busy marks, E of each slot, the context (R264). -/
def startMx (s : State) (c : Issue) (pb : List Word) : State :=
  let op : MxOp := { wave := c.wave.uid, pend := c.wave.nextOp, pb := pb, live := maskOf c.wave.liveLanes, nan := false, range := false,
                     wrap := false, residue := false, preempted := false, count := 0, flagged := false, carry := [] }
  let s := s.ownBlock c (fun b =>
    let b := (pbSlots pb).foldl (fun b n => b.putAcc n { b.acc n with e := pbE pb, busy := true } [0]) b
    b.setCtx (pbCtx pb) { status := 0, progress := pb.getD 14 0 ||| BitVec.twoPow 32 26, op := some op })
  s.own c (fun w => { w with locks := w.locks ++ mxLocks c.grid pb })

def execMxa (x : Fields) (s : State) : Host.Outcome State Fault Refusal :=
  issue s x (fun c => do
    checkOperands s c [srcA x 1] .zero 1
    c.guardUse x
    checkPoison s c [srcA x 1]
    if c.active.isEmpty then .ok s
    else
      let pb ← capture s c x
      checkBlock s c pb
      stopIf (mxWaits c pb) (.stay (s.own c (fun w => { w with wait := some (.matrix pb) })))
      let p := Pend.base .matrix (some 5) x 0 c.active [] 0
      .ok ((startMx s c pb).addPend c p))

/-! ### A step (R110-R113, R265) -/

/-- What the engine reads through: the block, its grid and partition, and the captured parameters. -/
structure Engine where
  block : Block
  grid : Grid
  part : Part
  wave : Option Wave
  op : MxOp
  deriving DecidableEq, Repr

/-- The weight-store byte that an engine reads. -/
def Engine.wsAt (e : Engine) (a : Nat) : Nat := dieOfCluster e.block.cluster * Config.wsDieSpan + shareBase e.part + a

/-- A byte of an operand's space, and whether it cannot be corrected. A racing write that has landed is seen in all its bytes (R268; log
73). -/
def engineByte (s : State) (e : Engine) (src base off : Nat) : Byte × Bool :=
  match src with
  | 1 => (s.spByte false e.block.uid (base + off), s.sramIsBad e.block.uid false (base + off))
  | 2 => match cspOwnerOf s e.grid e.block base with
    | some b => (s.spByte true b.uid (cspOffset base + off), s.sramIsBad b.uid true (cspOffset base + off))
    | none => (0, true)
  | _ =>
    let die := dieOfCluster e.block.cluster
    let a := shareBase e.part + base + off
    (s.wsByte die a, s.wsBad.any (fun u => u / 8 == (die * Config.wsDieSpan + a) / 8))

/-- Element (m, k) of an operand; a NaN where it is poisoned or cannot be read (R113, R262, R397). -/
def elementOf (s : State) (e : Engine) (d : Side) (m k : Nat) : Num :=
  let f := (elemFmt (slotElem (formatWord e.grid d.slot))).getD (.float fp32)
  let w := f.width
  if d.src = 0 then
    match e.wave with
    | none => .nan
    | some v =>
      let r := v.readV (d.reg + k * w / 32) m
      if ! e.op.live.getLsbD m || r.pz then .nan else f.decode (r.val.toNat / 2 ^ (k * w % 32) % 2 ^ w)
  else
    let off := d.offset w m k
    let bs := (List.range (ceilDiv w 8)).map (fun i => engineByte s e d.src (d.origin + d.base) (off + i))
    if bs.any Prod.snd then .nan else f.decode (bytesToNat (bs.map Prod.fst) / 2 ^ (if w = 4 then k % 2 * 4 else 0) % 2 ^ w)

/-- The exponent of the scale of row `m` at `k`: 0 where the operand is unscaled, none for a NaN scale (R107, R108). -/
def scaleOf (s : State) (e : Engine) (d : Side) (m k : Nat) : Option Int :=
  let f := formatWord e.grid d.slot
  if slotScale f ≠ 1 then some 0
  else
    let b := engineByte s e d.src (d.origin + d.scale) (m * scaleRow e.op.pb f + k / 2 ^ slotBlk f)
    if b.2 || b.1 == 0xFF then none else some ((b.1.toNat : Int) - 127)

/-- The contribution groups of K-chunk `j` (R110). -/
def groupsOf (g : Grid) (pb : List Word) (j : Nat) : List (List Nat) :=
  let ks := (List.range (min 64 (pbK pb - 64 * j))).map (64 * j + ·)
  let blks := ([sideA pb, sideB pb].map (fun d => formatWord g d.slot)).filterMap (fun f => if slotScale f = 1 then some (slotBlk f) else none)
  match blks.min? with
  | none => ks.map (fun k => [k])
  | some b => ((ks.map (· / 2 ^ b)).eraseDups).map (fun i => ks.filter (fun k => k / 2 ^ b == i))

/-- ⌊value / 2^(E - 64)⌋ (R110). -/
def floorWindow (neg : Bool) (m : Nat) (x e : Int) : Int :=
  let sh := x - (e - 64)
  applySign neg m * (2 ^ sh.toNat : Nat) / (2 ^ (-sh).toNat : Nat)

/-- The magnitude reaches 2^(E + bits) (R111, R274). -/
def beyondWindow (m : Nat) (x e : Int) (bits : Int) : Bool :=
  let base := min x (e + bits)
  decide (2 ^ (e + bits - base).toNat ≤ m * 2 ^ (x - base).toNat)

/-- What the contributions of a chunk add to one element. -/
structure Sum where
  total : Int
  nan : Bool
  range : Bool
  deriving DecidableEq, Repr

/-- Add one contribution (R110, R111, R113). -/
def Sum.add (t : Sum) (c : Num) (e : Int) : Sum :=
  match c with
  | .fin neg m x => if beyondWindow m x e 38 then { t with range := true } else { t with total := t.total + floorWindow neg m x e }
  | _ => { t with nan := true }

/-- One group's contribution to element (row, col). -/
def contribution (s : State) (e : Engine) (row col : Nat) (ks : List Nat) : Num :=
  let a := sideA e.op.pb
  let b := sideB e.op.pb
  let prods := ks.map (fun k => (elementOf s e a row k).mul (elementOf s e b col k))
  match scaleOf s e a row (ks.headD 0), scaleOf s e b col (ks.headD 0) with
  | some x, some y =>
    if prods.any (fun p => match p with | .fin .. => false | _ => true) then .nan
    else (prods.foldl Num.add (.fin false 0 0)).scale (x + y)
  | _, _ => .nan

/-- All contributions of chunk `j` to element (row, col). -/
def chunkSum (s : State) (e : Engine) (row col j : Nat) : Sum :=
  (groupsOf e.grid e.op.pb j).foldl (fun t ks => t.add (contribution s e row col ks) (signed 8 (pbE e.op.pb).toNat))
    { total := 0, nan := false, range := false }

/-- Wrap an exact sum into the range of K, with the multiple of 2^128 that it is off by (R112). -/
def wrapK (v : Int) : BitVec 128 × Int :=
  let k := BitVec.ofInt 128 v
  (k, (v - k.toInt) / (2 ^ 128 : Nat))

/-- What the step does to one element of its sub-tile. -/
def stepElement (sums : Sum) (fresh residue : Bool) (draw : Nat) (old : AccElem) (carry : Int) : AccElem × Int :=
  let old := if fresh then AccElem.start else old
  let (k, past) := wrapK (old.k.toInt + sums.total)
  ({ k := if residue then Config.freeAcc draw else k, taint := old.taint || sums.nan || residue }, carry + past)

/-- Places (r, c) of sub-tile `t` that lie within M and N, with their row and column (R265). -/
def tilePlaces (pb : List Word) (t : Nat) : List (Nat × Nat × Nat) :=
  let r0 := t / pbCols pb * 32
  let c0 := t % pbCols pb * 32
  (List.range (min 32 (pbM pb - r0))).flatMap (fun r => (List.range (min 32 (pbN pb - c0))).map (fun c => (32 * r + c, r0 + r, c0 + c)))

/-- The first step of a sub-tile that the operation performs (R265). -/
def freshStep (pb : List Word) (t j : Nat) : Bool :=
  pbInit pb && (j == 0 || (t == pbField pb 14 27 5 && j == pbField pb 14 0 19))

/-- One step (t, j): the slot and the operation after it, its flags gathered (R265, R267). -/
def stepTile (s : State) (e : Engine) (t j : Nat) (residue : Bool) : Acc × MxOp :=
  let a := e.block.acc (pbAcc e.op.pb + t)
  let fresh := freshStep e.op.pb t j
  let carry := if fresh then [] else e.op.carry
  let ps := (tilePlaces e.op.pb t).map (fun p =>
    let sums := chunkSum s e p.2.1 p.2.2 j
    (p.1, sums, stepElement sums fresh residue (s.draws + p.1) (Sparse.get .start a.elems p.1) (Sparse.get 0 carry p.1)))
  let elems := ps.foldl (fun m p => Sparse.set .start m p.1 p.2.2.1) a.elems
  let past := ps.foldl (fun m p => Sparse.set 0 m p.1 p.2.2.2) carry
  let nan := ps.any (fun p => p.2.1.nan)
  let range := ps.any (fun p => p.2.1.range)
  ({ a with elems := elems },
   { e.op with nan := e.op.nan || nan, range := e.op.range || range, residue := e.op.residue || residue, carry := past,
               flagged := e.op.flagged || nan || range || residue })

/-- The end of a sub-tile: WRAP shows in the exact sums, and the sub-tile counts if a flag arose (R112, R267). -/
def MxOp.endTile (o : MxOp) : MxOp :=
  let wrap := ! o.carry.isEmpty
  { o with wrap := o.wrap || wrap, count := o.count + (o.flagged || wrap).toNat, flagged := false, carry := [] }

/-- The status word (R267). -/
def MxOp.word (o : MxOp) (done : Bool) : Word :=
  BitVec.ofNat 32 (min o.count 255 * 2 ^ 8 + o.preempted.toNat * 32 + o.residue.toNat * 16 + o.wrap.toNat * 8 + o.range.toNat * 4
    + o.nan.toNat * 2 + done.toNat)

/-- The progress register (R266). -/
def progressWord (sub : Nat) (busy : Bool) (kch : Nat) : Word := BitVec.ofNat 32 (sub * 2 ^ 27 + busy.toNat * 2 ^ 26 + kch)

/-- The engine's arrival on the barrier that the block names (R267). -/
def engineArrive (s : State) (e : Engine) (word : Word) : State :=
  if ! pbSignals e.op.pb then s
  else match s.grid? e.grid.id, s.block? e.block.uid with
    | some g, some b => s.setBarrier g b (pbBar e.op.pb) ((barrierOf g b (pbBar e.op.pb)).arrive (g.count (pbBar e.op.pb)) word)
    | _, _ => s

/-- Completion: status, locks, busy marks, barrier, MX counter (R265, R267). -/
def finishMx (s : State) (e : Engine) (ctx : Nat) (o : MxOp) : State :=
  let word := o.word true
  let s := s.onBlock e.block.uid (fun b =>
    let b := (pbSlots o.pb).foldl (fun b n => b.putAcc n { b.acc n with busy := false } [0]) b
    b.setCtx ctx { status := word, progress := progressWord (pbT o.pb) false 0, op := none })
  let s := engineArrive s e word
  s.onWave o.wave (fun w => { w.complete o.pend with locks := w.locks.filter (fun k => k.ctx != ctx) })

/-- Weight-store addresses that the step reads: the ends of each row's slab, and its scales (R128). -/
def stepBanks (g : Grid) (pb : List Word) (t j : Nat) : List Nat :=
  let d := sideB pb
  let f := formatWord g d.slot
  if d.src ≠ 3 then []
  else
    let c0 := t % pbCols pb * 32
    (List.range (min 32 (pbN pb - c0))).flatMap (fun i =>
      let a := d.origin + d.base + j * d.pitch + (c0 + i) * d.rowPitch
      let k := d.origin + d.scale + (c0 + i) * scaleRow pb f + 64 * j / 2 ^ slotBlk f
      [a, a + slabRow (slotWidth f) - 1] ++ (if slotScale f = 1 then [k, k + 3] else []))

/-- The error unit of a byte of an operand's space: its place (R399) and its address there, with the block that holds a scratchpad word. -/
def engineUnit (s : State) (e : Engine) (src base off : Nat) : Nat × Nat × Nat :=
  match src with
  | 1 => (3, (base + off) / 4 * 4, e.block.uid)
  | 2 => (3, (cspOffset base + off) / 4 * 4, ((cspOwnerOf s e.grid e.block base).map Block.uid).getD 0)
  | _ => (1, e.wsAt (base + off) / 8 * 8, 0)

/-- The bytes of an operand, of its elements and its scales, that the step on chunk `j` reads for `n` rows from `r0`; an operand in
registers has none. -/
def sideReads (e : Engine) (d : Side) (r0 n j : Nat) : List (Nat × Nat) :=
  let f := formatWord e.grid d.slot
  let w := slotWidth f
  let ks := (List.range (min 64 (pbK e.op.pb - 64 * j))).map (64 * j + ·)
  let elems := (List.range n).flatMap (fun i => ks.flatMap (fun k => (List.range (ceilDiv w 8)).map (fun b =>
    (d.origin + d.base, d.offset w (r0 + i) k + b))))
  let scales := (List.range n).flatMap (fun i => ks.map (fun k => (d.origin + d.scale, (r0 + i) * scaleRow e.op.pb f + k / 2 ^ slotBlk f)))
  (if d.src = 0 then [] else elems) ++ (if slotScale f = 1 then scales else [])

/-- Report the errors that a step's reads of one operand meet, each unit once (R397, R399). -/
def noteSide (s : State) (e : Engine) (d : Side) (r0 n j : Nat) : State :=
  if s.wsBad.isEmpty && s.sramBad.isEmpty then s
  else
    let met := ((sideReads e d r0 n j).filter (fun r => (engineByte s e d.src r.1 r.2).2
      && (d.src != 2 || (cspOwnerOf s e.grid e.block r.1).isSome))).map (fun r => engineUnit s e d.src r.1 r.2)
    met.eraseDups.foldl (fun s u => s.noteError u.1 u.2.1 e.part.id) s

/-- Report the errors that a step meets in its reads of both operands (R397, R399). -/
def noteStep (s : State) (e : Engine) (t j : Nat) : State :=
  let r0 := t / pbCols e.op.pb * 32
  let c0 := t % pbCols e.op.pb * 32
  noteSide (noteSide s e (sideA e.op.pb) r0 (min 32 (pbM e.op.pb - r0)) j) e (sideB e.op.pb) c0 (min 32 (pbN e.op.pb - c0)) j

/-- The quarters of a tile slot that sub-tile `t` writes. -/
def tileQuarters (pb : List Word) (t : Nat) : List Nat := ((tilePlaces pb t).map (fun p => p.1 / 256)).eraseDups

/-- One step of an operation. While it is BUSY its status register shows the flags and the count gathered so far (R270; log 73). -/
def execMxaStep (blk ctx : Nat) (residue : Bool) (s : State) : Host.Outcome State Fault Refusal :=
  match s.block? blk with
  | none => .next s
  | some b =>
    match (b.ctx ctx).op, s.grid? b.grid with
    | some o, some g =>
      match s.part? g.part with
      | none => .next s
      | some p =>
        let t := (b.ctx ctx).progress.toNat / 2 ^ 27
        let j := (b.ctx ctx).progress.toNat % 2 ^ 19
        if (stepBanks g o.pb t j).any (fun a => inWindow (s.timeOf p) (wsBank a)) then .next s
        else
          let e : Engine := { block := b, grid := g, part := p, wave := s.wave? o.wave, op := o }
          let (a, o) := stepTile s e t j residue
          let o := if j + 1 = pbJ o.pb then o.endTile else o
          let s := if residue then s.noteError 4 (pbAcc o.pb + t) p.id else s
          let s := noteStep { s with draws := s.draws + 1024 } e t j
          let s := s.onBlock blk (fun b => b.putAcc (pbAcc o.pb + t) a (tileQuarters o.pb t))
          if j + 1 < pbJ o.pb ∨ t + 1 < pbT o.pb then
            let pr := if j + 1 < pbJ o.pb then progressWord t true (j + 1) else progressWord (t + 1) true 0
            .next (s.onBlock blk (fun b => b.setCtx ctx { status := o.word false, progress := pr, op := some o }))
          else .next (finishMx s e ctx o)
    | _, _ => .next s

/-! ### MXQ (R270) -/

def execMxq (x : Fields) (s : State) : Host.Outcome State Fault Refusal :=
  issue s x (fun c => do
    checkOperands s c [srcA x 1] x.d 2
    checkPoison s c [srcA x 1]
    if c.active.isEmpty then .ok s
    else
      let n := uniformVal s c x.a 1
      stopIf (decide (c.block.alloc.mxe ≤ n)) (fault Cause.grantRange 0)
      let k := c.block.ctx n
      .ok (s.own c (fun w => w.putResult x.d 2 c.active (guardMark c x (k.status.toNat + 2 ^ 32 * k.progress.toNat)))))

end Sys2Proof.Machine
end

