-- ==== Sys2Proof/Machine/Accum.lean ====
section
/-! DEFINITION. The accumulator instructions: ACLR, ACVT, ACST and ACLD (R115, R116, R258, R271-R274). -/

namespace Sys2Proof.Machine

/-- The slot that A names, once its grant and its busy mark have been checked (R56, R94). -/
def checkSlotRank (s : State) (c : Issue) (x : Fields) : Except Stop Unit :=
  stopIf (decide (c.block.alloc.acc ≤ uniformVal s c x.a 1)) (fault Cause.grantRange 0)

def slotAcc (s : State) (c : Issue) (x : Fields) : Acc := c.block.acc (uniformVal s c x.a 1)

def execAclr (x : Fields) (s : State) : Host.Outcome State Fault Refusal :=
  issue s x (fun c => do
    checkOperands s c [srcA x 1, srcB x 1] .zero 1
    checkPoison s c [srcA x 1, srcB x 1]
    if c.active.isEmpty then .ok s
    else
      checkSlotRank s c x
      stopIf (slotAcc s c x).busy .wait
      let e := BitVec.ofNat 8 (uniformVal s c x.b 1)
      .ok (s.ownBlock c (fun b => b.setAcc (uniformVal s c x.a 1) { e := e, elems := [], busy := false })))

/-! ### Delivered values -/

/-- The exact value of an element: K × 2^(E - 64), a NaN when it is tainted (R109, R115). -/
def Acc.value (a : Acc) (i : Nat) : Num :=
  let x := Sparse.get .start a.elems i
  if x.taint then .nan else .fin (decide (x.k.toInt < 0)) x.k.toInt.natAbs (a.e.toInt - 64)

/-- The conversion of an element into a type (R115). -/
def accConverted (a : Acc) (t : Ty) (i : Nat) : Result := converted (fmtOf t) (a.value i)

/-- What ACVT delivers: K raw for `.a128` (R116), else the conversion, placed as R215 states. -/
def accDelivered (a : Acc) (t : Ty) (i : Nat) : Result :=
  if t = .a128 then
    let x := Sparse.get .start a.elems i
    { val := x.k.toNat, pz := x.taint }
  else
    let r := accConverted a t i
    { r with val := placeResult t r.val }

def execAcvt (x : Fields) (s : State) : Host.Outcome State Fault Refusal :=
  let t := effectiveTy .acvt x
  issue s x (fun c => do
    checkOperands s c [srcA x 1, srcB x 1] x.d t.regs
    checkPoison s c [srcA x 1, srcB x 1]
    if c.active.isEmpty then .ok s
    else
      checkSlotRank s c x
      let index := fun l => (readOp s c x.b 1 l).val
      stopIf (c.active.any (fun l => decide (31 < index l))) (fault Cause.grantRange 0)
      let a := slotAcc s c x
      stopIf a.busy .wait
      let place := fun l => if x.opt.getLsbD 0 then 32 * l + index l else 32 * index l + l
      .ok (s.own c (fun w => w.putResult x.d t.regs c.active (fun l =>
        let r := accDelivered a t (place l)
        { r with pz := r.pz || guardPoisoned c.wave x l }))))

/-! ### Whole tiles in memory (R273, R274) -/

/-- Bits of an element in memory. -/
def tileBits (t : Ty) : Nat := if t = .a128 then 128 else (fmtOf t).width

/-- Bytes of a tile: the `.a128` layout ends with a taint map. -/
def tileBytes (t : Ty) : Nat := if t = .a128 then 16512 else 128 * tileBits t

/-- Translate every sector of a global range; the result is one physical sector address each. -/
def translateSpan (s : State) (c : Issue) (va n : Nat) (r w : Bool) : Except Stop (List Nat) :=
  (List.range (ceilDiv n 32)).mapM (fun i => translate s c (va + 32 * i) r w)

/-- The range checks of an ACST or ACLD of `n` bytes at `a` (R118, R236). -/
def checkTile (s : State) (c : Issue) (spc : Space) (a n : Nat) : Except Stop Unit := do
  stopIf (a % 128 != 0) (faultAt Cause.misaligned 0 a)
  stopIf (spc == .g && decide (2 ^ 58 < a + n)) (faultAt Cause.addrRange 0 a)
  stopIf (! inGrant s c spc a n) (fault Cause.grantRange 0)
  stopIf (spc == .g && inPrivate c.part a n) (faultAt Cause.permission 0 a)

/-- The sectors that a tile access touches. -/
def tileSpots (spc : Space) (owner a n : Nat) (phys : List Nat) : List Spot :=
  match spc with
  | .g | .pv => phys.map (fun p => (0, 0, p / 32))
  | .sp => (List.range (ceilDiv n 32)).map (fun i => (1, owner, a / 32 + i))
  | .csp => (List.range (ceilDiv n 32)).map (fun i => (2, owner, a / 32 + i))
  | .k => []

/-- Where a tile lies: the block that owns a scratchpad, the offset there, and physical sectors. -/
structure TileAt where
  owner : Nat
  off : Nat
  phys : List Nat
  deriving DecidableEq, Repr

def locateTile (s : State) (c : Issue) (spc : Space) (a n : Nat) (r w : Bool) : Except Stop TileAt := do
  checkTile s c spc a n
  match spc with
  | .g => (translateSpan s c a n r w).map (fun ps => { owner := 0, off := a, phys := ps })
  | .csp => .ok { owner := ((cspOwner s c a).map Block.uid).getD 0, off := cspOffset a, phys := [] }
  | _ => .ok { owner := c.block.uid, off := a, phys := [] }

/-- The bytes of a tile (R273). -/
def tileData (a : Acc) (t : Ty) : List Byte :=
  if t = .a128 then
    (List.range 1024).flatMap (fun i => natToBytes 16 (Sparse.get .start a.elems i).k.toNat)
      ++ (List.range 128).map (fun j => BitVec.ofNat 8 ((List.range 8).map (fun b =>
            if (Sparse.get .start a.elems (8 * j + b)).taint then 2 ^ b else 0)).sum)
  else if tileBits t = 4 then
    (List.range 512).map (fun j => BitVec.ofNat 8 ((accConverted a t (2 * j)).val % 16 + (accConverted a t (2 * j + 1)).val % 16 * 16))
  else (List.range 1024).flatMap (fun i => natToBytes (tileBits t / 8) (accConverted a t i).val)

/-- A tainted element under a type without a NaN (R273). -/
def tileTainted (a : Acc) (t : Ty) : Bool :=
  t != .a128 && (List.range 1024).any (fun i => (accConverted a t i).pz)

/-- Write a tile: into a scratchpad, or as dirty sectors of the core with the release marks of the group's threads (R143, R144). -/
def writeTile (s : State) (c : Issue) (spc : Space) (p : TileAt) (data : List Byte) : State :=
  match spc with
  | .sp => s.writeSp false p.owner p.off data
  | .csp => s.writeSp true p.owner p.off data
  | _ =>
    let (age, s) := s.take
    let s := s.cacheVas c [p.off, p.off + data.length - 1]
    let s := s.dirtyBytes c.core c.wave.uid age (data.mapIdx (fun i b => (p.phys.getD (i / 32) 0 + i % 32, p.off + i, b)))
    let marks := c.wave.marks.filter (fun m => m.lanes &&& maskOf c.active != 0)
    (p.phys.mapIdx (fun i a => (i, a))).foldl (fun s q =>
      (marks.filter (fun m => match m.inside with | none => true | some rs => rs.any (fun r => r.overlaps (p.off + 32 * q.1) 32))).foldl
        (fun s m => s.markRelease c.core (q.2 / 32) { seq := age, scope := m.scope, inside := m.inside, only := m.only }) s) s

/-- Earlier accesses of the wave that a tile access must follow, and acquires that hold it (R140, R240). -/
def tileWaits (c : Issue) (spc : Space) (n : Nat) (p : TileAt) : Bool :=
  accessHeld c.wave || behindAny c.wave (tileSpots spc p.owner p.off n p.phys)

def execAcst (x : Fields) (s : State) : Host.Outcome State Fault Refusal :=
  let t := effectiveTy .acst x
  let spc := optSpace x
  let n := tileBytes t
  issue s x (fun c => do
    let srcs := [srcA x 1, srcD x (addrRegs spc)]
    checkAccess s c x srcs .zero 1
    if c.active.isEmpty then .ok s
    else
      checkSlotRank s c x
      let p ← locateTile s c spc (uniformVal s c x.d (addrRegs spc)) n false true
      let a := slotAcc s c x
      stopIf (a.busy || tileWaits c spc n p || p.phys.any (fun a => ! s.homeUp c.part a)) .wait
      checkCounts s c.wave none (allRangeBits c.wave spc n [p.off])
      stopIf (tileTainted a t) (fault Cause.poisonUse 0)
      .ok (writeTile s c spc p (tileData a t)))

/-- One byte of a tile and whether it is poisoned or cannot be read. -/
def tileByte (s : State) (c : Issue) (spc : Space) (p : TileAt) (i : Nat) : Byte × Bool :=
  match spc with
  | .sp => spadByte s false p.owner (p.off + i)
  | .csp => spadByte s true p.owner (p.off + i)
  | _ => globalByte s c.core (p.phys.getD (i / 32) 0 + i % 32)

/-- The element that ACLD makes of a value: K in units of 2^(E - 64), or a taint; a poisoned byte taints and leaves K (R274). -/
def loadedElem (v : Num) (e : Int) (bad : Bool) : AccElem :=
  match v with
  | .fin neg m x =>
    if beyondWindow m x e 63 then { k := 0, taint := true } else { k := BitVec.ofInt 128 (floorWindow neg m x e), taint := bad }
  | _ => { k := 0, taint := true }

/-- Element `i` of a tile read from memory; `byte` gives the tile's bytes. -/
def tileElem (t : Ty) (e : Int) (byte : Nat → Byte × Bool) (i : Nat) : AccElem :=
  let n := tileBits t / 8
  let bs := (List.range n).map (fun j => byte (n * i + j))
  let v := bytesToNat (bs.map Prod.fst)
  if t = .a128 then
    let m := byte (16384 + i / 8)
    { k := BitVec.ofNat 128 v, taint := m.1.getLsbD (i % 8) || m.2 || bs.any Prod.snd }
  else loadedElem ((fmtOf t).decode v) e (bs.any Prod.snd)

def execAcld (x : Fields) (s : State) : Host.Outcome State Fault Refusal :=
  let t := effectiveTy .acld x
  let spc := optSpace x
  let n := tileBytes t
  issue s x (fun c => do
    let srcs := [srcA x 1, srcB x (addrRegs spc), srcC x 1]
    checkAccess s c x srcs .zero 1
    if c.active.isEmpty then .ok s
    else
      checkSlotRank s c x
      let p ← locateTile s c spc (uniformVal s c x.b (addrRegs spc)) n true false
      stopIf ((slotAcc s c x).busy || tileWaits c spc n p || p.phys.any (fun a => ! s.homeUp c.part a)) .wait
      checkCounts s c.wave none (allRangeBits c.wave spc n [p.off])
      let e := BitVec.ofNat 8 (uniformVal s c x.c 1)
      let elems := (List.range 1024).foldl (fun m i => Sparse.set .start m i (tileElem t e.toInt (tileByte s c spc p) i)) []
      let s := noteL1 (noteSectors s c.part.id (p.phys.map (· / 32))) c.part.id c.core (p.phys.map (· / 32))
      let s := if spc == .g then s.cacheVas c [p.off, p.off + n - 1] else noteSpad s c.part.id (spc == .csp) p.owner p.off n
      .ok (s.ownBlock c (fun b => b.setAcc (uniformVal s c x.a 1) { e := e, elems := elems, busy := false })))

end Sys2Proof.Machine
end

