-- ==== Sys2Proof/Machine/Channels.lean ====
section
/-! DEFINITION. Channels between the kernels of a gang (R89, R90, R298-R303). -/

namespace Sys2Proof.Machine

/-- The slot index that an operand names: a C operand's number, or a value (R285). -/
def slotIndex (s : State) (c : Issue) (o : Operand) : Nat :=
  match o with
  | .c n => n.val
  | o => uniformVal s c o 1

/-- The entry of a slot. -/
def slotEntry (c : Issue) (n : Nat) : Word := c.block.c.getD n 0

/-- A CHANNEL fault (R303). -/
def channelFault (n : Nat) : Stop := fault Cause.channel n

/-- What every channel instruction checks first: operands, poison, and subcode 1. -/
def checkSlot (s : State) (c : Issue) (x : Fields) (srcs : List Src) (dregs : Nat) : Except Stop Unit := do
  checkOperands s c srcs x.d dregs
  checkPoison s c srcs
  let n := slotIndex s c x.a
  stopIf (decide (15 < n) || ! slotValid (slotEntry c n)) (channelFault 1)

/-- The queue of a slot's pipe for the block's linear index. -/
def channelOf (p : Part) (lin : Nat) (e : Word) : Channel :=
  (p.channel lin (slotEndp e)).getD { endp := slotEndp e, lin := lin, msgs := [], closed := false }

/-- Change the block's own slot. -/
def Block.setSlot (b : Block) (n : Nat) (e : Word) : Block := { b with c := b.c.set n e }

def execChsend (x : Fields) (s : State) : Host.Outcome State Fault Refusal :=
  issue s x (fun c => do
    c.guardUse x
    if c.active.isEmpty then .ok s
    else
      checkSlot s c x [srcA x 1, srcB x 1] 1
      let n := slotIndex s c x.a
      let e := slotEntry c n
      stopIf (slotPerm e != 1) (channelFault 2)
      stopIf (slotAllow e == 0) (channelFault 3)
      stopIf (slotClosed e) (channelFault 4)
      stopIf (accessHeld c.wave || ! isQuiet c.wave) .wait
      let s ← releaseFlush s c .gd
      let s := s.ownBlock c (fun b => b.setSlot n (e - 1))
      let k := channelOf c.part c.block.lin e
      let m := BitVec.ofNat 32 (uniformVal s c x.b 1)
      .ok (s.onPart c.part.id (fun p => p.setChannel { k with msgs := k.msgs ++ [m] })))

def execChrecv (x : Fields) (s : State) : Host.Outcome State Fault Refusal :=
  issue s x (fun c => do
    c.guardUse x
    if c.active.isEmpty then .ok s
    else
      checkSlot s c x [srcA x 1] 2
      let e := slotEntry c (slotIndex s c x.a)
      stopIf (slotPerm e != 2) (channelFault 2)
      stopIf (accessHeld c.wave) .wait
      let p : Pend := Pend.base .receive none x 8 c.active [Access.at_ 0 (slotEndp e, 0, 0)] 0
      .ok ((s.own c (fun w => w.markEmpty x.d 2 c.active)).addPend c p))

/-- CHPOLL's word (R301). -/
def pollWord (s : State) (c : Issue) (e : Word) : Nat :=
  let count := match slotPerm e with
    | 1 => slotAllow e
    | 2 => (channelOf c.part c.block.lin e).msgs.length - (s.receivers c.block.uid (slotEndp e)).length
    | _ => 0
  (slotClosed e).toNat * 2 ^ 31 + slotPerm e * 2 ^ 29 + count % 2 ^ 16

def execChpoll (x : Fields) (s : State) : Host.Outcome State Fault Refusal :=
  issue s x (fun c => do
    c.guardUse x
    if c.active.isEmpty then .ok s
    else
      checkSlot s c x [srcA x 1] 1
      let v := pollWord s c (slotEntry c (slotIndex s c x.a))
      .ok (s.own c (fun w => w.putResult x.d 1 c.active (fun _ => plain v))))

/-- CHCLOSE; a receiver that closes keeps the messages that its CHRECVs have claimed (R302; log 79). -/
def execChclose (x : Fields) (s : State) : Host.Outcome State Fault Refusal :=
  issue s x (fun c => do
    c.guardUse x
    if c.active.isEmpty then .ok s
    else
      checkSlot s c x [srcA x 1] 1
      let e := slotEntry c (slotIndex s c x.a)
      .ok (if slotClosed e then s else s.closeChannel c.part.id c.block e))

/-! ### A message is taken (R90, R300) -/

/-- The sender's slot regains one unit of allowance, never above what the launch bound. -/
def returnAllow (bound e : Word) : Word := if slotPerm e = 1 ∧ slotAllow e < slotAllow bound then e + 1 else e

/-- Complete a CHRECV: `m` the message, or none for a drained channel. -/
def takeMessage (s : State) (b : Block) (w : Wave) (p : Pend) (m : Option Word) : State :=
  let v := match m with
    | some m => m.toNat + 2 ^ 32
    | none => 2 ^ 33
  let s := s.onWave w.uid (fun w => ((match p.dst with | .s n => w.putS n 2 (plain v) | _ => w).complete p.id))
  if m.isSome then s.discard b.coreIndex else s

def execChrecvMessageTaken (u op : Nat) (s : State) : Host.Outcome State Fault Refusal :=
  match s.wave? u with
  | none => .next s
  | some w =>
    match s.block? w.block, w.pend? op with
    | some b, some p =>
      match s.partOfCluster b.cluster, p.left with
      | some q, a :: _ =>
        let first := (s.receivers b.uid a.addr).all (fun r => decide (p.seq ≤ r.seq))
        let k := (q.channel b.lin a.addr).getD { endp := a.addr, lin := b.lin, msgs := [], closed := false }
        if p.kind != .receive || ! first then .next s
        else match k.msgs with
          | m :: rest =>
            let s := s.onPart q.id (fun q => q.setChannel { k with msgs := rest })
            .next (takeMessage (s.mapEnds q.id b.lin a.addr returnAllow) b w p (some m))
          | [] => .next (if k.closed then takeMessage s b w p none else s)
      | _, _ => .next s
    | _, _ => .next s

end Sys2Proof.Machine
end

