-- ==== Sys2Proof/Machine/Integer.lean ====
section
/-! DEFINITION. Integer arithmetic, logic, shifts, bit fields and moves (R187-R200). -/

namespace Sys2Proof.Machine

/-- Wrap an exact value to `n` bits (R187). -/
def wrap (n : Nat) (v : Int) : Nat := (v % (2 ^ n : Nat)).toNat

/-- The instruction runs signed (R187). -/
def isSigned (op : Op) (x : Fields) : Bool :=
  match effectiveTy op x with
  | .s8 | .s16 | .s32 | .s64 => true
  | _ => false

/-- A 32-bit operand as a number of the instruction's signedness. -/
def num (sgn : Bool) (n v : Nat) : Int := if sgn then signed n v else (v : Int)

/-! ### Arithmetic (R187-R189) -/

def execNop (x : Fields) (s : State) : Host.Outcome State Fault Refusal := issue s x (fun _ => .ok s)

def execIadd (x : Fields) (s : State) : Host.Outcome State Fault Refusal :=
  alu s x shape2 (fun v => plain ((v.a + v.b) % 2 ^ 32))

def execIsub (x : Fields) (s : State) : Host.Outcome State Fault Refusal :=
  alu s x shape2 (fun v => plain (wrap 32 ((v.a : Int) - v.b)))

def execImul (x : Fields) (s : State) : Host.Outcome State Fault Refusal :=
  alu s x shape2 (fun v => plain (v.a * v.b % 2 ^ 32))

/-- The upper half of the exact product under the type's signedness. -/
def execImulh (x : Fields) (s : State) : Host.Outcome State Fault Refusal :=
  let g := isSigned .imulh x
  alu s x shape2 (fun v => plain (wrap 32 ((num g 32 v.a * num g 32 v.b) / (2 ^ 32 : Nat))))

def execImad (x : Fields) (s : State) : Host.Outcome State Fault Refusal :=
  alu s x shape3 (fun v => plain ((v.a * v.b + v.c) % 2 ^ 32))

def execImnxMin (x : Fields) (s : State) : Host.Outcome State Fault Refusal :=
  let g := isSigned .imnxMin x
  alu s x shape2 (fun v => plain (if num g 32 v.a ≤ num g 32 v.b then v.a else v.b))

def execImnxMax (x : Fields) (s : State) : Host.Outcome State Fault Refusal :=
  let g := isSigned .imnxMax x
  alu s x shape2 (fun v => plain (if num g 32 v.a ≤ num g 32 v.b then v.b else v.a))

/-- The absolute value of the operand under the type's signedness; an unsigned operand is its own. -/
def execIabnAbs (x : Fields) (s : State) : Host.Outcome State Fault Refusal :=
  let g := isSigned .iabnAbs x
  alu s x shape1 (fun v => plain (wrap 32 (num g 32 v.a).natAbs))

def execIabnNeg (x : Fields) (s : State) : Host.Outcome State Fault Refusal :=
  alu s x shape1 (fun v => plain (wrap 32 (- (v.a : Int))))

/-- The shape of the 64-bit sums (R188). -/
def shapeLong : Shape := { d := 2, a := 2, b := 2, c := 0, old := false }

def execIadd64 (x : Fields) (s : State) : Host.Outcome State Fault Refusal :=
  alu s x shapeLong (fun v => plain ((v.a + v.b) % 2 ^ 64))

def execIsub64 (x : Fields) (s : State) : Host.Outcome State Fault Refusal :=
  alu s x shapeLong (fun v => plain (wrap 64 ((v.a : Int) - v.b)))

def execLea (x : Fields) (s : State) : Host.Outcome State Fault Refusal :=
  let g := isSigned .lea x
  alu s x { d := 2, a := 2, b := 1, c := 1, old := false }
    (fun v => plain (wrap 64 (v.a + num g 32 v.b * (2 ^ (v.c % 32) : Nat))))

/-! ### Logic and shifts (R190-R193) -/

/-- The complement of a 32-bit pattern. -/
def not32 (a : Nat) : Nat := 2 ^ 32 - 1 - a % 2 ^ 32

def execLogAnd (x : Fields) (s : State) : Host.Outcome State Fault Refusal := alu s x shape2 (fun v => plain (v.a &&& v.b))
def execLogOr (x : Fields) (s : State) : Host.Outcome State Fault Refusal := alu s x shape2 (fun v => plain (v.a ||| v.b))
def execLogXor (x : Fields) (s : State) : Host.Outcome State Fault Refusal := alu s x shape2 (fun v => plain (v.a ^^^ v.b))
def execLogAndn (x : Fields) (s : State) : Host.Outcome State Fault Refusal := alu s x shape2 (fun v => plain (v.a &&& not32 v.b))
def execNot (x : Fields) (s : State) : Host.Outcome State Fault Refusal := alu s x shape1 (fun v => plain (not32 v.a))

/-- The number whose bits `f` gives, for bits below `n`. -/
def bitsFrom (n : Nat) (f : Nat → Bool) : Nat := ((List.range n).map (fun i => if f i then 2 ^ i else 0)).sum

/-- A truth table of three inputs, bit by bit (R191). -/
def tern (tab a b c : Nat) : Nat :=
  bitsFrom 32 (fun i => tab.testBit ((a.testBit i).toNat + 2 * (b.testBit i).toNat + 4 * (c.testBit i).toNat))

def execTern (x : Fields) (s : State) : Host.Outcome State Fault Refusal :=
  alu s x shape3 (fun v => plain (tern x.opt.toNat v.a v.b v.c))

/-- The shifts of R192; no bit of the amount is masked off. -/
def shl (a n : Nat) : Nat := if n < 32 then a * 2 ^ n % 2 ^ 32 else 0
def shr (a n : Nat) : Nat := if n < 32 then a / 2 ^ n else 0
def sar (a n : Nat) : Nat := wrap 32 (signed 32 a / (2 ^ (min n 32) : Nat))
def rotl (a n : Nat) : Nat := a * 2 ^ (n % 32) % 2 ^ 32 + a / 2 ^ (32 - n % 32)

def execShShl (x : Fields) (s : State) : Host.Outcome State Fault Refusal := alu s x shape2 (fun v => plain (shl v.a v.b))
def execShShr (x : Fields) (s : State) : Host.Outcome State Fault Refusal := alu s x shape2 (fun v => plain (shr v.a v.b))
def execShSar (x : Fields) (s : State) : Host.Outcome State Fault Refusal := alu s x shape2 (fun v => plain (sar v.a v.b))
def execShRot (x : Fields) (s : State) : Host.Outcome State Fault Refusal := alu s x shape2 (fun v => plain (rotl v.a v.b))

def execDshr (x : Fields) (s : State) : Host.Outcome State Fault Refusal :=
  alu s x shape3 (fun v => plain ((v.b * 2 ^ 32 + v.a) / 2 ^ (v.c % 64) % 2 ^ 32))

/-! ### Bit fields and bytes (R194-R197) -/

/-- Position and length of a field (R194). -/
def fieldPos (b : Nat) : Nat := min (b % 256) 32
def fieldLen (b c : Nat) : Nat := min (c % 256) (32 - fieldPos b)

/-- BFX (R194). -/
def bfx (sgn : Bool) (a b c : Nat) : Nat :=
  let n := fieldLen b c
  let f := a / 2 ^ fieldPos b % 2 ^ n
  if n = 0 then 0 else if sgn && f.testBit (n - 1) then f + 2 ^ 32 - 2 ^ n else f

def execBfx (x : Fields) (s : State) : Host.Outcome State Fault Refusal :=
  let g := isSigned .bfx x
  alu s x shape3 (fun v => plain (bfx g v.a v.b v.c))

/-- BFI (R195). -/
def bfi (old a b c : Nat) : Nat :=
  let m := (2 ^ fieldLen b c - 1) * 2 ^ fieldPos b
  (old &&& not32 m) ||| (a * 2 ^ fieldPos b &&& m)

def execBfi (x : Fields) (s : State) : Host.Outcome State Fault Refusal :=
  alu s x { shape3 with old := true } (fun v => plain (bfi v.old v.a v.b v.c))

def popCount (a : Nat) : Nat := ((List.range 32).filter a.testBit).length
def leadingZeros (a : Nat) : Nat := if a = 0 then 32 else 31 - a.log2
def bitReverse (n a : Nat) : Nat := bitsFrom n (fun i => a.testBit (n - 1 - i))

def execPopc (x : Fields) (s : State) : Host.Outcome State Fault Refusal := alu s x shape1 (fun v => plain (popCount v.a))
def execClz (x : Fields) (s : State) : Host.Outcome State Fault Refusal := alu s x shape1 (fun v => plain (leadingZeros v.a))
def execBrev (x : Fields) (s : State) : Host.Outcome State Fault Refusal := alu s x shape1 (fun v => plain (bitReverse 32 v.a))

/-- One byte of BYTX (R197): selector `f` over the eight bytes of a and b. -/
def bytxByte (a b f : Nat) : Nat :=
  let y := (b * 2 ^ 32 + a) / 2 ^ (8 * (f % 8)) % 256
  match f / 8 % 4 with
  | 1 => 0
  | 2 => if y.testBit 7 then 0xFF else 0
  | 3 => bitReverse 8 y
  | _ => y

/-- BYTX (R197). -/
def bytx (a b c : Nat) : Nat := ((List.range 4).map (fun i => bytxByte a b (c / 2 ^ (5 * i)) * 2 ^ (8 * i))).sum

def execBytx (x : Fields) (s : State) : Host.Outcome State Fault Refusal :=
  alu s x shape3 (fun v => plain (bytx v.a v.b v.c))

/-! ### Moves (R199, R200) -/

def execMov (x : Fields) (s : State) : Host.Outcome State Fault Refusal :=
  let n := (effectiveTy .mov x).regs
  alu s x { d := n, a := n, b := 0, c := 0, old := false } (fun v => plain v.a)

/-- What MOVSR delivers for lane `k` (R200): a live lane's element, else 0 and poison. -/
def movsrRead (c : Issue) (x : Fields) (n k : Nat) : Read :=
  match x.a with
  | .v r => if c.wave.isLive k then .ofElems (c.wave.vElems r n k) else { val := 0, full := true, pz := true }
  | _ => .clean 0

def execMovsr (x : Fields) (s : State) : Host.Outcome State Fault Refusal :=
  let n := (effectiveTy .movsr x).regs
  issue s x (fun c => do
    if c.active.isEmpty then .ok s
    else
      checkOperands s c [srcB x 1] x.d n
      stopIf (beyondGrant c.wave x.a n) (fault Cause.grantRange 0)
      let k := uniformVal s c x.b 1
      checkPoison s c [srcB x 1]
      let r := movsrRead c x n k
      if ! r.full then .error (if x.ea then fault Cause.emptyRead 1 else .wait)
      else .ok (s.own c (fun w => w.putResult x.d n c.active (fun _ => { val := r.val, pz := r.pz || c.guardPz x }))))

end Sys2Proof.Machine
end

