-- ==== Sys2Proof/Machine/Lane.lean ====
section
/-! DEFINITION. Exchange between the lanes of the issuing group: LXCH, PAGG, BALLOT, EQMASK and LFOLD (R224-R229). -/

namespace Sys2Proof.Machine

/-! ### LXCH (R225) -/

/-- The modes of LXCH by MINOR: the partner of lane `l`, which may lie outside the wave. -/
def lxchPartner (mode l b : Nat) : Int :=
  match mode with
  | 0 => (b % 32 : Nat)
  | 1 => (l : Int) - (b % 256 : Nat)
  | 2 => (l : Int) + (b % 256 : Nat)
  | 3 => (l ^^^ (b % 32) : Nat)
  | _ => ((l + b % 32) % 32 : Nat)

/-- The lane that lane `l` reads: its partner, or itself where it has none. -/
def lxchSource (s : State) (c : Issue) (x : Fields) (mode l : Nat) : Nat :=
  let k := lxchPartner mode l (readOp s c x.b 1 l).val
  if k < 0 ∨ 31 < k then l else k.toNat

/-- What lane `l` receives. -/
def lxchRead (s : State) (c : Issue) (x : Fields) (mode n l : Nat) : Read :=
  let k := lxchSource s c x mode l
  if c.wave.isLive k then readOp s c x.a n k else { val := 0, full := true, pz := true }

/-- The five modes; every source element is read before any element of D is written, and B is met before A (log 64). -/
def lxch (mode : Nat) (op : Op) (x : Fields) (s : State) : Host.Outcome State Fault Refusal :=
  let n := (effectiveTy op x).regs
  issue s x (fun c => do
    if c.active.isEmpty then .ok s
    else
      stopIf (beyondGrant c.wave x.d n || beyondGrant c.wave x.a n || beyondGrant c.wave x.b 1) (fault Cause.grantRange 0)
      if c.active.any (fun l => ! (readOp s c x.b 1 l).full) then .error (if x.eb then fault Cause.emptyRead 2 else .wait)
      else
        stopIf (c.active.any (fun l => ! (lxchRead s c x mode n l).full)) (if x.ea then fault Cause.emptyRead 1 else .wait)
        checkOperands s c [] x.d n
        .ok (s.own c (fun w => w.putResult x.d n c.active (fun l =>
          let r := lxchRead s c x mode n l
          { val := r.val, pz := r.pz || (readOp s c x.b 1 l).pz || guardPoisoned c.wave x l }))))

def execLxchIdx (x : Fields) (s : State) : Host.Outcome State Fault Refusal := lxch 0 .lxchIdx x s
def execLxchBack (x : Fields) (s : State) : Host.Outcome State Fault Refusal := lxch 1 .lxchBack x s
def execLxchFwd (x : Fields) (s : State) : Host.Outcome State Fault Refusal := lxch 2 .lxchFwd x s
def execLxchXor (x : Fields) (s : State) : Host.Outcome State Fault Refusal := lxch 3 .lxchXor x s
def execLxchRot (x : Fields) (s : State) : Host.Outcome State Fault Refusal := lxch 4 .lxchRot x s

/-! ### Votes (R226, R227) -/

/-- A result that every lane of `active` shares. -/
def together (s : State) (x : Fields) (dregs aregs : Nat) (f : Issue → (Nat → Nat) → Nat → Nat) (guards : Bool) :
    Host.Outcome State Fault Refusal :=
  issue s x (fun c => do
    checkOperands s c [srcA x aregs] x.d dregs
    let val := fun l => (readOp s c x.a aregs l).val
    let pz := c.active.any (fun l => (readOp s c x.a aregs l).pz) || (guards && c.guardPz x)
    .ok (s.own c (fun w => w.putResult x.d dregs c.active (fun l =>
      { val := f c val l, pz := pz || guardPoisoned c.wave x l }))))

def execPaggAny (x : Fields) (s : State) : Host.Outcome State Fault Refusal :=
  together s x 1 1 (fun c v _ => (c.active.any (fun l => v l == 1)).toNat) false
def execPaggAll (x : Fields) (s : State) : Host.Outcome State Fault Refusal :=
  together s x 1 1 (fun c v _ => (c.active.all (fun l => v l == 1)).toNat) false
def execPaggSame (x : Fields) (s : State) : Host.Outcome State Fault Refusal :=
  together s x 1 1 (fun c v _ => (c.active.all (fun l => v l == 1) || c.active.all (fun l => v l == 0)).toNat) false
def execPaggNone (x : Fields) (s : State) : Host.Outcome State Fault Refusal :=
  together s x 1 1 (fun c v _ => (c.active.all (fun l => v l == 0)).toNat) false

def execBallot (x : Fields) (s : State) : Host.Outcome State Fault Refusal :=
  together s x 1 1 (fun c v _ => (maskOf (c.active.filter (fun l => v l == 1))).toNat) true

/-! ### EQMASK and LFOLD (R228, R229) -/

/-- The lanes of `active` whose value has the same bits as lane `l`'s. -/
def equalLanes (c : Issue) (v : Nat → Nat) (l : Nat) : List Nat := c.active.filter (fun k => v k == v l)

def execEqmaskMask (x : Fields) (s : State) : Host.Outcome State Fault Refusal :=
  together s x 1 (effectiveTy .eqmaskMask x).regs (fun c v l => (maskOf (equalLanes c v l)).toNat) true

def execEqmaskLead (x : Fields) (s : State) : Host.Outcome State Fault Refusal :=
  together s x 1 (effectiveTy .eqmaskLead x).regs (fun c v l => (equalLanes c v l).headD l) true

/-- A fold over the values of the lanes of `active`; nothing is written when there are none. -/
def lfold (op : Op) (f : Nat → Bool → List Nat → Nat) (x : Fields) (s : State) : Host.Outcome State Fault Refusal :=
  let n := (effectiveTy op x).regs
  together s x n n (fun c v _ => f (32 * n) (isSigned op x) (c.active.map v)) true

/-- The least (or greatest) of the values under a signedness. -/
def pickBy (greater sgn : Bool) (n : Nat) (a b : Nat) : Nat :=
  if (if greater then num sgn n a < num sgn n b else num sgn n b < num sgn n a) then b else a

/-- Fold a nonempty list. -/
def foldFirst (f : Nat → Nat → Nat) : List Nat → Nat
  | [] => 0
  | a :: t => t.foldl f a

def execLfoldAdd (x : Fields) (s : State) : Host.Outcome State Fault Refusal :=
  lfold .lfoldAdd (fun n _ vs => vs.sum % 2 ^ n) x s
def execLfoldMin (x : Fields) (s : State) : Host.Outcome State Fault Refusal :=
  lfold .lfoldMin (fun n g vs => foldFirst (pickBy false g n) vs) x s
def execLfoldMax (x : Fields) (s : State) : Host.Outcome State Fault Refusal :=
  lfold .lfoldMax (fun n g vs => foldFirst (pickBy true g n) vs) x s
def execLfoldAnd (x : Fields) (s : State) : Host.Outcome State Fault Refusal :=
  lfold .lfoldAnd (fun _ _ vs => foldFirst (· &&& ·) vs) x s
def execLfoldOr (x : Fields) (s : State) : Host.Outcome State Fault Refusal :=
  lfold .lfoldOr (fun _ _ vs => foldFirst (· ||| ·) vs) x s
def execLfoldXor (x : Fields) (s : State) : Host.Outcome State Fault Refusal :=
  lfold .lfoldXor (fun _ _ vs => foldFirst (· ^^^ ·) vs) x s
def execLfoldCnt (x : Fields) (s : State) : Host.Outcome State Fault Refusal :=
  lfold .lfoldCnt (fun _ _ vs => (vs.filter (· != 0)).length) x s

end Sys2Proof.Machine
end

