-- ==== Sys2Proof/Machine/Predicate.lean ====
section
/-! DEFINITION. Compare, predicate and select instructions on integers and predicates (R201, R203-R205). -/

namespace Sys2Proof.Machine

def execIcmp (cond : Fin 10) (x : Fields) (s : State) : Host.Outcome State Fault Refusal :=
  alu s x shape2 (fun v => plain (intCond cond 32 v.a v.b).toNat)

def execIcmp64 (cond : Fin 10) (x : Fields) (s : State) : Host.Outcome State Fault Refusal :=
  alu s x { d := 1, a := 2, b := 2, c := 0, old := false } (fun v => plain (intCond cond 64 v.a v.b).toNat)

def execPlopAnd (x : Fields) (s : State) : Host.Outcome State Fault Refusal := alu s x shape2 (fun v => plain (v.a &&& v.b))
def execPlopOr (x : Fields) (s : State) : Host.Outcome State Fault Refusal := alu s x shape2 (fun v => plain (v.a ||| v.b))
def execPlopXor (x : Fields) (s : State) : Host.Outcome State Fault Refusal := alu s x shape2 (fun v => plain (v.a ^^^ v.b))
def execPlopAndn (x : Fields) (s : State) : Host.Outcome State Fault Refusal :=
  alu s x shape2 (fun v => plain (if v.b = 0 then v.a else 0))

/-- The operand that SEL chooses in a lane (R204). -/
def selChosen (s : State) (c : Issue) (x : Fields) (n l : Nat) : Src :=
  if (readOp s c x.c 1 l).val = 1 then srcA x n else srcB x n

/-- SEL's empty check: only the chosen operand of each lane is read. -/
def selEmpty (s : State) (c : Issue) (x : Fields) (n : Nat) : Except Stop Unit :=
  let empty := fun (r : Src) => c.active.any (fun l => selChosen s c x n l == r && ! (readOp s c r.op n l).full)
  let stop := fun (r : Src) => if r.trap then fault Cause.emptyRead r.place else Stop.wait
  if empty (srcA x n) then .error (stop (srcA x n))
  else if empty (srcB x n) then .error (stop (srcB x n))
  else .ok ()

def execSel (x : Fields) (s : State) : Host.Outcome State Fault Refusal :=
  let n := (effectiveTy .sel x).regs
  issue s x (fun c => do
    if c.active.isEmpty then .ok s
    else
      stopIf (beyondGrant c.wave x.a n || beyondGrant c.wave x.b n) (fault Cause.grantRange 0)
      selEmpty s c x n
      checkOperands s c [] x.d n
      .ok (s.own c (fun w => w.putResult x.d n c.active (fun l =>
        let r := readOp s c (selChosen s c x n l).op n l
        { val := r.val, pz := r.pz || (readOp s c x.c 1 l).pz || guardPoisoned c.wave x l }))))

/-- PMOV (R205): from a register's element, from bit l of a uniform value, or from a predicate. -/
def execPmov (x : Fields) (s : State) : Host.Outcome State Fault Refusal :=
  issue s x (fun c => do
    checkOperands s c [srcA x 1] x.d 1
    .ok (s.own c (fun w => w.putResult x.d 1 c.active (fun l =>
      let r := readOp s c x.a 1 l
      let bit := match x.a with
        | .p _ | .v _ => decide (r.val ≠ 0)
        | _ => r.val.testBit l
      { val := bit.toNat, pz := r.pz || guardPoisoned c.wave x l }))))

end Sys2Proof.Machine
end

