-- ==== Sys2Proof/Machine/Regroup.lean ====
section
/-! DEFINITION. REORD and the regroup unit (R38-R40, R230). -/

namespace Sys2Proof.Machine

/-! ### REORD at issue -/

/-- REORD holds its wave whole; the regroup unit does the rest (R38). -/
def execReord (x : Fields) (s : State) : Host.Outcome State Fault Refusal :=
  issue s x (fun c => collective s c (do
    stopIf (beyondGrant c.wave x.a 1) (fault Cause.grantRange 0)
    checkEmpty s c [srcB x 1]
    .error (.stay (s.own c (fun w => { w with wait := some (.regroup x) })))))

/-! ### The regroup unit -/

/-- Registers that a window lists; those above 255 included (R230). -/
def windowRegs (win : Nat) : List Nat := ((List.range 16).filter (fun i => win.testBit i)).map (fun i => win / 2 ^ 16 % 256 + i)

/-- A wave held whole at its REORD, with what it issues. -/
structure Held where
  issue : Issue
  x : Fields
  regs : List Nat
  deriving DecidableEq, Repr

/-- The wave as held at a REORD; none while it is not. -/
def State.heldAt (s : State) (w : Wave) : Option Held :=
  match w.wait with
  | some (.regroup x) =>
    match ({ s with issuing := w.uid } : State).issue? x with
    | some c => if c.group.length = w.liveLanes.length ∧ w.liveLanes.all (fun l => (w.lane l).pc == c.pc)
                then some { issue := c, x := x, regs := windowRegs (readOp s c x.b 1 0).val } else none
    | none => none
  | _ => none

/-- A listed register that some wave of the block does not hold, or one above 255 (R230). -/
def badWindow (waves : List Wave) (h : Held) : Bool :=
  h.regs.any (fun r => decide (255 < r) || waves.any (fun w => decide (Config.regsPerGranule * w.regAlloc ≤ r)))

/-- The conditions of R39 for one wave. -/
def settled (s : State) (cluster : Nat) (h : Held) : Bool :=
  let w := h.issue.wave
  [0, 1, 2, 3, 4, 5].all (fun k => w.counter k == 0) && w.locks.isEmpty && (s.deferredOf cluster w.uid).isNone
    && h.regs.all (fun r => w.liveLanes.all (fun l => (w.readV r l).full))

/-- The key of a lane. -/
def keyOf (s : State) (h : Held) (l : Nat) : Read := readOp s h.issue h.x.a 1 l

def keysFull (s : State) (h : Held) : Bool := h.issue.group.all (fun l => (keyOf s h l).full)

/-- A thread on the move: its key and everything that travels with it (R40). -/
structure Thread where
  key : Nat
  lane : Lane
  regs : List (Nat × Elem)
  preds : List Pred
  marks : List FenceMark
  seen : List Seen
  deriving DecidableEq, Repr

def threadOf (s : State) (h : Held) (l : Nat) : Thread :=
  let w := h.issue.wave
  { key := (keyOf s h l).val
    lane := { w.lane l with pc := h.issue.pc + 12, held := false }
    regs := h.regs.map (fun r => (r, w.readV r l))
    preds := (List.range 7).map (fun n => w.readP n l)
    marks := w.marks.filter (fun m => m.lanes.getLsbD l)
    seen := w.seen.filter (fun e => e.lanes.getLsbD l) }

/-- Insert by key; an equal key stays behind those already there, so ties keep their order (R39). -/
def insertThread (t : Thread) : List Thread → List Thread
  | [] => [t]
  | u :: r => if t.key < u.key then t :: u :: r else u :: insertThread t r

def sortThreads (ts : List Thread) : List Thread := ts.foldl (fun r t => insertThread t r) []

/-- The V file after the regroup: listed registers travel, unlisted ones read 0, full and poisoned (R40). -/
def regroupV (w : Wave) (ts : List Thread) : Sparse Elem :=
  (List.range (Config.regsPerGranule * w.regAlloc)).flatMap (fun r =>
    (ts.mapIdx (fun l t => (32 * r + l, Sparse.get { val := 0, full := true, pz := true } t.regs r))).filter
      (fun e => e.2 != Elem.start))

def regroupP (ts : List Thread) : Sparse Pred :=
  (List.range 7).flatMap (fun n => (ts.mapIdx (fun l t => (32 * n + l, t.preds.getD n .start))).filter (fun e => e.2 != Pred.start))

/-- Release marks of the threads, lane by lane: they hold for the stores that the wave issues from now on. -/
def regroupMarks (w : Wave) (ts : List Thread) : List FenceMark :=
  (ts.mapIdx (fun l t => t.marks.map (fun m => { m with lanes := BitVec.twoPow 32 l, after := w.nextOp }))).flatten

/-- What the threads have read travels with them, for later fences (R143); what no WAITCNT has awaited stays, without lanes, for the wave's
own WAITCNTs (R144). -/
def regroupSeen (w : Wave) (ts : List Thread) : List Seen :=
  ((w.seen.filter (fun (e : Seen) => ! e.waited)).map (fun (e : Seen) => { e with lanes := 0 })
    ++ (ts.mapIdx (fun l (t : Thread) => t.seen.map (fun (e : Seen) => { e with lanes := BitVec.twoPow 32 l, waited := true, rank := 0 }))).flatten).eraseDups

/-- Writes of the whole V file count for each of its granules of 32 registers (R387). -/
def Wave.rewrittenV (w : Wave) : Sparse Nat :=
  (List.range ((w.regAlloc + 3) / 4)).foldl (fun m i => Sparse.set 0 m i (Sparse.get 0 m i + 1)) w.written

/-- The operations still under way in a wave whose lanes had all exited: no new thread has them, and what they fill is discarded on
arrival (R211; log 78). -/
def leftBehind (p : Pend) : Pend := { p with dst := .zero, lanes := 0, carried := 0 }

/-- A wave slot after the regroup: its share of the sorted threads, the rest of its lanes absent (R39, R40). A wave left without threads
counts as retired (R39), save one that still has an operation under way or an error of a CPL to deliver, which retires after it (R49,
R245). -/
def regroupWave (w : Wave) (all : List Thread) (stall : Nat) : Wave :=
  let ts := (all.drop (32 * w.waveId)).take 32
  let gone := ts.isEmpty && (w.retired || (w.pend.all (fun p => p.kind == .receive) && ! w.copyError))
  { w with
    lanes := (List.range 32).map (fun l => match ts[l]? with | some t => t.lane | none => .absent)
    v := regroupV w ts
    written := w.rewrittenV
    p := regroupP ts
    pend := if gone then [] else if w.liveLanes.isEmpty then w.pend.map leftBehind else w.pend
    marks := regroupMarks w ts
    seen := regroupSeen w ts
    wait := none
    stall := stall
    retired := gone }

/-- Raise a fault in each wave of a list. -/
def raiseAll (s : State) (hs : List Held) (t : Trap) : State := hs.foldl (fun s h => s.raise h.issue t h.issue.pc) s

/-- The faults of R38 and R230 that stop a regroup, and the waves that take them. -/
def regroupFault (s : State) (waves : List Wave) (hs : List Held) : Option (List Held × Trap) :=
  let pc := ((hs.map (fun h => h.issue.pc)).min?).getD 0
  if hs.any (fun h => h.issue.pc != pc) then
    some (hs.take 1, { code := Cause.collectiveSplit, detail := BitVec.ofNat 32 pc, addr := 0 })
  else if hs.any (badWindow waves) then some (hs, { code := Cause.grantRange, detail := 0, addr := 0 })
  else
    let empty := hs.filter (fun h => h.x.ea && ! keysFull s h)
    if empty.isEmpty then none else some (empty, { code := Cause.emptyRead, detail := 1, addr := 0 })

/-- Threads that step past the last instruction fault after the regroup (R170). -/
def regroupEnd (s : State) (blk : Nat) (h : Held) : State :=
  if h.issue.pc + 12 < h.issue.codeSize then s
  else (s.wavesOf blk).foldl (fun s w =>
    match ({ s with issuing := w.uid } : State).issue? h.x with
    | some c => s.raise { c with pc := h.issue.pc }
        { code := Cause.badTarget, detail := BitVec.ofNat 32 (h.issue.pc + 12), addr := 0 } (h.issue.pc + 12)
    | none => s) s

/-- One regroup of a block, once every wave with a live lane stands at the REORD. -/
def execReordRegroup (blk : Nat) (s : State) : Host.Outcome State Fault Refusal :=
  match s.block? blk with
  | none => .next s
  | some b =>
    let waves := s.wavesOf blk
    let here := waves.filter (fun w => ! w.liveLanes.isEmpty)
    let hs := here.filterMap s.heldAt
    if here.isEmpty || hs.length < here.length then .next s
    else match regroupFault s waves hs with
      | some (at_, t) => .next (raiseAll s at_ t)
      | none =>
        if ! hs.all (fun h => settled s b.cluster h && keysFull s h) then .next s
        else
          let all := sortThreads (hs.flatMap (fun h => h.issue.group.map (threadOf s h)))
          let gap := fun (w : Wave) => ((hs.find? (fun h => h.issue.wave.uid == w.uid)).map (fun h => h.x.stall.toNat)).getD 0
          let s := { s with waves := s.waves.map (fun w => if w.block = blk then regroupWave w all (gap w) else w) }
          .next (match hs with | h :: _ => regroupEnd s blk h | [] => s)

end Sys2Proof.Machine
end

