-- ==== Sys2Proof/Machine/Dispatch.lean ====
section
/-! DEFINITION. One arm for each constructor of `Instr`: the meaning it has. -/

namespace Sys2Proof.Machine

def exec (i : Instr) (s : State) : Host.Outcome State Fault Refusal :=
  match i with
  | .nop x => Sys2Proof.Machine.execNop x s
  | .mov x => Sys2Proof.Machine.execMov x s
  | .movsr x => Sys2Proof.Machine.execMovsr x s
  | .iadd x => Sys2Proof.Machine.execIadd x s
  | .isub x => Sys2Proof.Machine.execIsub x s
  | .imul x => Sys2Proof.Machine.execImul x s
  | .imulh x => Sys2Proof.Machine.execImulh x s
  | .imad x => Sys2Proof.Machine.execImad x s
  | .imnxMin x => Sys2Proof.Machine.execImnxMin x s
  | .imnxMax x => Sys2Proof.Machine.execImnxMax x s
  | .iabnAbs x => Sys2Proof.Machine.execIabnAbs x s
  | .iabnNeg x => Sys2Proof.Machine.execIabnNeg x s
  | .iadd64 x => Sys2Proof.Machine.execIadd64 x s
  | .isub64 x => Sys2Proof.Machine.execIsub64 x s
  | .lea x => Sys2Proof.Machine.execLea x s
  | .logAnd x => Sys2Proof.Machine.execLogAnd x s
  | .logOr x => Sys2Proof.Machine.execLogOr x s
  | .logXor x => Sys2Proof.Machine.execLogXor x s
  | .logAndn x => Sys2Proof.Machine.execLogAndn x s
  | .tern x => Sys2Proof.Machine.execTern x s
  | .not x => Sys2Proof.Machine.execNot x s
  | .shShl x => Sys2Proof.Machine.execShShl x s
  | .shShr x => Sys2Proof.Machine.execShShr x s
  | .shSar x => Sys2Proof.Machine.execShSar x s
  | .shRot x => Sys2Proof.Machine.execShRot x s
  | .dshr x => Sys2Proof.Machine.execDshr x s
  | .bfx x => Sys2Proof.Machine.execBfx x s
  | .bfi x => Sys2Proof.Machine.execBfi x s
  | .popc x => Sys2Proof.Machine.execPopc x s
  | .clz x => Sys2Proof.Machine.execClz x s
  | .brev x => Sys2Proof.Machine.execBrev x s
  | .bytx x => Sys2Proof.Machine.execBytx x s
  | .icmp cond x => Sys2Proof.Machine.execIcmp cond x s
  | .icmp64 cond x => Sys2Proof.Machine.execIcmp64 cond x s
  | .fcmp cond x => Sys2Proof.Machine.execFcmp cond x s
  | .plopAnd x => Sys2Proof.Machine.execPlopAnd x s
  | .plopOr x => Sys2Proof.Machine.execPlopOr x s
  | .plopXor x => Sys2Proof.Machine.execPlopXor x s
  | .plopAndn x => Sys2Proof.Machine.execPlopAndn x s
  | .sel x => Sys2Proof.Machine.execSel x s
  | .pmov x => Sys2Proof.Machine.execPmov x s
  | .fclass x => Sys2Proof.Machine.execFclass x s
  | .bra x => Sys2Proof.Machine.execBra x s
  | .brx x => Sys2Proof.Machine.execBrx x s
  | .call x => Sys2Proof.Machine.execCall x s
  | .callx x => Sys2Proof.Machine.execCallx x s
  | .ret x => Sys2Proof.Machine.execRet x s
  | .exit x => Sys2Proof.Machine.execExit x s
  | .yield x => Sys2Proof.Machine.execYield x s
  | .trap x => Sys2Proof.Machine.execTrap x s
  | .bpt x => Sys2Proof.Machine.execBpt x s
  | .fadd x => Sys2Proof.Machine.execFadd x s
  | .fsub x => Sys2Proof.Machine.execFsub x s
  | .fmul x => Sys2Proof.Machine.execFmul x s
  | .ffma x => Sys2Proof.Machine.execFfma x s
  | .fmnxMin x => Sys2Proof.Machine.execFmnxMin x s
  | .fmnxMax x => Sys2Proof.Machine.execFmnxMax x s
  | .pkadd x => Sys2Proof.Machine.execPkadd x s
  | .pkmul x => Sys2Proof.Machine.execPkmul x s
  | .pkfma x => Sys2Proof.Machine.execPkfma x s
  | .frcp x => Sys2Proof.Machine.execFrcp x s
  | .frsq x => Sys2Proof.Machine.execFrsq x s
  | .fsqrt x => Sys2Proof.Machine.execFsqrt x s
  | .fexp2 x => Sys2Proof.Machine.execFexp2 x s
  | .flog2 x => Sys2Proof.Machine.execFlog2 x s
  | .fsin x => Sys2Proof.Machine.execFsin x s
  | .fcos x => Sys2Proof.Machine.execFcos x s
  | .cvt x => Sys2Proof.Machine.execCvt x s
  | .cvtf x => Sys2Proof.Machine.execCvtf x s
  | .qblk x => Sys2Proof.Machine.execQblk x s
  | .dqblk x => Sys2Proof.Machine.execDqblk x s
  | .lxchIdx x => Sys2Proof.Machine.execLxchIdx x s
  | .lxchBack x => Sys2Proof.Machine.execLxchBack x s
  | .lxchFwd x => Sys2Proof.Machine.execLxchFwd x s
  | .lxchXor x => Sys2Proof.Machine.execLxchXor x s
  | .lxchRot x => Sys2Proof.Machine.execLxchRot x s
  | .paggAny x => Sys2Proof.Machine.execPaggAny x s
  | .paggAll x => Sys2Proof.Machine.execPaggAll x s
  | .paggSame x => Sys2Proof.Machine.execPaggSame x s
  | .paggNone x => Sys2Proof.Machine.execPaggNone x s
  | .ballot x => Sys2Proof.Machine.execBallot x s
  | .eqmaskMask x => Sys2Proof.Machine.execEqmaskMask x s
  | .eqmaskLead x => Sys2Proof.Machine.execEqmaskLead x s
  | .lfoldAdd x => Sys2Proof.Machine.execLfoldAdd x s
  | .lfoldMin x => Sys2Proof.Machine.execLfoldMin x s
  | .lfoldMax x => Sys2Proof.Machine.execLfoldMax x s
  | .lfoldAnd x => Sys2Proof.Machine.execLfoldAnd x s
  | .lfoldOr x => Sys2Proof.Machine.execLfoldOr x s
  | .lfoldXor x => Sys2Proof.Machine.execLfoldXor x s
  | .lfoldCnt x => Sys2Proof.Machine.execLfoldCnt x s
  | .reord x => Sys2Proof.Machine.execReord x s
  | .ld x => Sys2Proof.Machine.execLd x s
  | .st x => Sys2Proof.Machine.execSt x s
  | .ldw x => Sys2Proof.Machine.execLdw x s
  | .pref x => Sys2Proof.Machine.execPref x s
  | .cpl x => Sys2Proof.Machine.execCpl x s
  | .ptest x => Sys2Proof.Machine.execPtest x s
  | .pclr x => Sys2Proof.Machine.execPclr x s
  | .atomAdd x => Sys2Proof.Machine.execAtomAdd x s
  | .atomMin x => Sys2Proof.Machine.execAtomMin x s
  | .atomMax x => Sys2Proof.Machine.execAtomMax x s
  | .atomAnd x => Sys2Proof.Machine.execAtomAnd x s
  | .atomOr x => Sys2Proof.Machine.execAtomOr x s
  | .atomXor x => Sys2Proof.Machine.execAtomXor x s
  | .atomExch x => Sys2Proof.Machine.execAtomExch x s
  | .cas x => Sys2Proof.Machine.execCas x s
  | .redAdd x => Sys2Proof.Machine.execRedAdd x s
  | .redMin x => Sys2Proof.Machine.execRedMin x s
  | .redMax x => Sys2Proof.Machine.execRedMax x s
  | .redAnd x => Sys2Proof.Machine.execRedAnd x s
  | .redOr x => Sys2Proof.Machine.execRedOr x s
  | .redXor x => Sys2Proof.Machine.execRedXor x s
  | .fence x => Sys2Proof.Machine.execFence x s
  | .range x => Sys2Proof.Machine.execRange x s
  | .pfenceTile x => Sys2Proof.Machine.execPfenceTile x s
  | .pfenceMod x => Sys2Proof.Machine.execPfenceMod x s
  | .waitcnt cls x => Sys2Proof.Machine.execWaitcnt cls x s
  | .cpt x => Sys2Proof.Machine.execCpt x s
  | .cpm x => Sys2Proof.Machine.execCpm x s
  | .twaitAny x => Sys2Proof.Machine.execTwaitAny x s
  | .twaitAll x => Sys2Proof.Machine.execTwaitAll x s
  | .tfind x => Sys2Proof.Machine.execTfind x s
  | .tchkTest x => Sys2Proof.Machine.execTchkTest x s
  | .tchkWait x => Sys2Proof.Machine.execTchkWait x s
  | .tfree x => Sys2Proof.Machine.execTfree x s
  | .mxa x => Sys2Proof.Machine.execMxa x s
  | .mxq x => Sys2Proof.Machine.execMxq x s
  | .aclr x => Sys2Proof.Machine.execAclr x s
  | .acvt x => Sys2Proof.Machine.execAcvt x s
  | .acst x => Sys2Proof.Machine.execAcst x s
  | .acld x => Sys2Proof.Machine.execAcld x s
  | .bara x => Sys2Proof.Machine.execBara x s
  | .barw x => Sys2Proof.Machine.execBarw x s
  | .bars x => Sys2Proof.Machine.execBars x s
  | .barq x => Sys2Proof.Machine.execBarq x s
  | .gate x => Sys2Proof.Machine.execGate x s
  | .openGate x => Sys2Proof.Machine.execOpenGate x s
  | .acq kind x => Sys2Proof.Machine.execAcq kind x s
  | .acqW kind x => Sys2Proof.Machine.execAcqW kind x s
  | .free kind x => Sys2Proof.Machine.execFree kind x s
  | .clmq kind x => Sys2Proof.Machine.execClmq kind x s
  | .chsend x => Sys2Proof.Machine.execChsend x s
  | .chrecv x => Sys2Proof.Machine.execChrecv x s
  | .chpoll x => Sys2Proof.Machine.execChpoll x s
  | .chclose x => Sys2Proof.Machine.execChclose x s
  | .tspawn x => Sys2Proof.Machine.execTspawn x s
  | .wdq x => Sys2Proof.Machine.execWdq x s
  | .time x => Sys2Proof.Machine.execTime x s
  | .movcr x => Sys2Proof.Machine.execMovcr x s
  | .movrc x => Sys2Proof.Machine.execMovrc x s
  | .eret x => Sys2Proof.Machine.execEret x s
  | .shdw x => Sys2Proof.Machine.execShdw x s
  | .tlbi x => Sys2Proof.Machine.execTlbi x s
  | .halt x => Sys2Proof.Machine.execHalt x s
  | .reordRegroup blk => Sys2Proof.Machine.execReordRegroup blk s
  | .taskGatherTimeout grid entry => Sys2Proof.Machine.execTaskGatherTimeout grid entry s
  | .waveRetire w => Sys2Proof.Machine.execWaveRetire w s
  | .gckRequestTest cl => Sys2Proof.Machine.execGckRequestTest cl s
  | .gckScan cl => Sys2Proof.Machine.execGckScan cl s
  | .admitUnit p grid task places => Sys2Proof.Machine.execAdmitUnit p grid task places s
  | .loadDataReturn w op mask => Sys2Proof.Machine.execLoadDataReturn w op mask s
  | .atomicReplyReturn w op mask => Sys2Proof.Machine.execAtomicReplyReturn w op mask s
  | .serviceWarpPerform req => Sys2Proof.Machine.execServiceWarpPerform req s
  | .l1Eviction core line => Sys2Proof.Machine.execL1Eviction core line s
  | .homeWriteBack core sector => Sys2Proof.Machine.execHomeWriteBack core sector s
  | .promotionFlush core sector => Sys2Proof.Machine.execPromotionFlush core sector s
  | .copyChunkWrite copy chunk => Sys2Proof.Machine.execCopyChunkWrite copy chunk s
  | .cpmDelivery copy rcv chunk => Sys2Proof.Machine.execCpmDelivery copy rcv chunk s
  | .cplCopyComplete w op => Sys2Proof.Machine.execCplCopyComplete w op s
  | .wdqAnswer copy => Sys2Proof.Machine.execWdqAnswer copy s
  | .mxaStep blk ctx residue => Sys2Proof.Machine.execMxaStep blk ctx residue s
  | .chrecvMessageTaken w op => Sys2Proof.Machine.execChrecvMessageTaken w op s
  | .vesperWindowStart p => Sys2Proof.Machine.execVesperWindowStart p s
  | .vesperWindowEnd p => Sys2Proof.Machine.execVesperWindowEnd p s
  | .timeDeadlineReached w => Sys2Proof.Machine.execTimeDeadlineReached w s
  | .yieldExpire w => Sys2Proof.Machine.execYieldExpire w s
  | .stallExpire w => Sys2Proof.Machine.execStallExpire w s
  | .faultReplay die idx => Sys2Proof.Machine.execFaultReplay die idx s
  | .faultCancel die idx => Sys2Proof.Machine.execFaultCancel die idx s
  | .ccTlbi p addr n => Sys2Proof.Machine.execCcTlbi p addr n s
  | .shadowWriteBehind cl kib => Sys2Proof.Machine.execShadowWriteBehind cl kib s
  | .imageClose cl => Sys2Proof.Machine.execImageClose cl s
  | .tilePowerLoss cl torn => Sys2Proof.Machine.execTilePowerLoss cl torn s
  | .modulePowerLoss torn => Sys2Proof.Machine.execModulePowerLoss torn s
  | .dawnResume cl core => Sys2Proof.Machine.execDawnResume cl core s
  | .moduleResumeRequest r => Sys2Proof.Machine.execModuleResumeRequest r s
  | .tlastWrite p => Sys2Proof.Machine.execTlastWrite p s
  | .preempt p => Sys2Proof.Machine.execPreempt p s
  | .preemptResume p => Sys2Proof.Machine.execPreemptResume p s
  | .partitionCreate p start domains wssz arena => Sys2Proof.Machine.execPartitionCreate p start domains wssz arena s
  | .partitionDestroy p => Sys2Proof.Machine.execPartitionDestroy p s
  | .serviceReload image signed => Sys2Proof.Machine.execServiceReload image signed s
  | .serviceStoreSwap cl => Sys2Proof.Machine.execServiceStoreSwap cl s
  | .doorbellWrite p slot wridx => Sys2Proof.Machine.execDoorbellWrite p slot wridx s
  | .qcbCommit p slot cfg => Sys2Proof.Machine.execQcbCommit p slot cfg s
  | .ccWatchdogExpire => Sys2Proof.Machine.execCcWatchdogExpire s
  | .nopPacket p slot => Sys2Proof.Machine.execNopPacket p slot s
  | .launchPacket p slot => Sys2Proof.Machine.execLaunchPacket p slot s
  | .graphPacket p slot => Sys2Proof.Machine.execGraphPacket p slot s
  | .tasksPacket p slot => Sys2Proof.Machine.execTasksPacket p slot s
  | .copyPacket p slot => Sys2Proof.Machine.execCopyPacket p slot s
  | .wsloadPacket p slot => Sys2Proof.Machine.execWsloadPacket p slot s
  | .condPacket p slot => Sys2Proof.Machine.execCondPacket p slot s
  | .condReevaluate p slot => Sys2Proof.Machine.execCondReevaluate p slot s
  | .tlwaitPacket p slot => Sys2Proof.Machine.execTlwaitPacket p slot s
  | .tlsigPacket p slot => Sys2Proof.Machine.execTlsigPacket p slot s
  | .fencePacket p slot => Sys2Proof.Machine.execFencePacket p slot s
  | .markPacket p slot => Sys2Proof.Machine.execMarkPacket p slot s
  | .budgetPeriodBoundary use => Sys2Proof.Machine.execBudgetPeriodBoundary use s
  | .patrolScrub die units => Sys2Proof.Machine.execPatrolScrub die units s
  | .rblWrite cl value => Sys2Proof.Machine.execRblWrite cl value s
  | .gckLimitWrite cl kind value => Sys2Proof.Machine.execGckLimitWrite cl kind value s
  | .vtgtWrite cl rid mv => Sys2Proof.Machine.execVtgtWrite cl rid mv s
  | .voltageRequestFinish cl => Sys2Proof.Machine.execVoltageRequestFinish cl s
  | .noonTick pmod use => Sys2Proof.Machine.execNoonTick pmod use s
  | .thermalStepChange die temp => Sys2Proof.Machine.execThermalStepChange die temp s
  | .sliceGate cl slice => Sys2Proof.Machine.execSliceGate cl slice s
  | .sliceWake cl slice => Sys2Proof.Machine.execSliceWake cl slice s
  | .ptpMessage offs => Sys2Proof.Machine.execPtpMessage offs s
  | .errorCountClear mask => Sys2Proof.Machine.execErrorCountClear mask s
  | .flitCrcRetry port good => Sys2Proof.Machine.execFlitCrcRetry port good s
  | .herrumLaneFail port => Sys2Proof.Machine.execHerrumLaneFail port s
  | .hbmChannelSpare domain => Sys2Proof.Machine.execHbmChannelSpare domain s
  | .edramBankSpare die bank => Sys2Proof.Machine.execEdramBankSpare die bank s
  | .sparingMapUpdate parts torn => Sys2Proof.Machine.execSparingMapUpdate parts torn s
  | .powerOn boot => Sys2Proof.Machine.execPowerOn boot s
  | .leaseAuthorityEnrol counter e signed => Sys2Proof.Machine.execLeaseAuthorityEnrol counter e signed s
  | .leaseStart counter l signed => Sys2Proof.Machine.execLeaseStart counter l signed s
  | .leaseEnd lease nonce signed => Sys2Proof.Machine.execLeaseEnd lease nonce signed s
  | .recoveryResetDvsec value => Sys2Proof.Machine.execRecoveryResetDvsec value s
  | .recoveryResetPin lowNs => Sys2Proof.Machine.execRecoveryResetPin lowNs s
  | .functionLevelReset => Sys2Proof.Machine.execFunctionLevelReset s
  | .registerWrite addr value => Sys2Proof.Machine.execRegisterWrite addr value s
  | .storeComplete w op => Sys2Proof.Machine.execStoreComplete w op s
  | .debuggerAccess p req => Sys2Proof.Machine.execDebuggerAccess p req s
  | .laneRetrainComplete port => Sys2Proof.Machine.execLaneRetrainComplete port s

end Sys2Proof.Machine
end

