-- ==== Sys2Proof/Machine/Upsets.lean ====
section
/-! DEFINITION. Errors that strike storage and links (R397, R399, R412): what each does at once; what it does to those who read comes
with their reading. -/

namespace Sys2Proof.Machine

/-- A register element whose word cannot be corrected: poisoned, with a value that nothing states (R397). -/
def Elem.struck (e : Elem) (draw : Nat) : Elem :=
  { e with val := BitVec.ofNat 32 (bytesToNat ((List.range 4).map (fun i => Config.freeByte (draw + i)))), pz := true }

/-- The image cannot be read whole any more: it is incomplete (R390, R397). -/
def Cluster.tear (b : Bool) (c : Cluster) : Cluster :=
  let tear := fun (o : Option Image) => o.map (fun (i : Image) => { i with complete := false })
  if b then { c with imageB := tear c.imageB } else { c with imageA := tear c.imageA }

/-- The control core restarts at Matins; its new firmware pre-empts and resumes every partition: at once where it can, else as soon as what
the partition has issued is complete (R394, R397; `State.owed`). -/
def State.restartCc (s : State) : State :=
  if s.module.boot != 8 then s
  else
    let t := (s.setModule { s.module with boot := 2 }).bootOn { s.module.found with upTo := 8 } 8
    { t.setModule { t.module with restarts := t.parts.map Part.id } with agenda := t.parts.flatMap (fun p => [Move.event (.preempt p.id), Move.event (.preemptResume p.id)]) ++ t.agenda }

/-- The partition that a wave runs in, for the report of an error. -/
def State.partOfWave (s : State) (u : Nat) : Nat :=
  ((((s.wave? u).bind (fun w => s.block? w.block)).bind (fun b => s.partOfCluster b.cluster)).map Part.id).getD 0

/-- An error strikes. -/
def State.upset (s : State) (u : Upset) : State :=
  let t := { s with draws := s.draws + 4 }
  match u with
  | .corrected p => if p < 7 then s.noteCorrected p else s
  | .memory a => { s with bad := a :: s.bad }
  | .weight a => { s with wsBad := a :: s.wsBad }
  | .spad e => { s with sramBad := e :: s.sramBad }
  | .l1 core w => if s.inL1 core (4 * w) then { s with l1Bad := (core, w) :: s.l1Bad } else s
  | .vreg w r l => ((t.onWave w (fun w => w.writeV r l ((w.readV r l).struck s.draws)))).noteError 3 r (s.partOfWave w)
  | .sreg w r => ((t.onWave w (fun w => w.writeS r ((w.readS r).struck s.draws)))).noteError 3 r (s.partOfWave w)
  | .image cl b => (s.onCluster cl (Cluster.tear b)).noteError 2 cl (((s.partOfCluster cl).map Part.id).getD 0)
  | .tcm => (s.noteError 3 0 0).restartCc
  | .hostLink => s.noteError 6 0 0

end Sys2Proof.Machine
end

