-- ==== Sys2Proof/Machine/Schedule.lean ====
section
/-! DEFINITION. What a move does, and which one comes next: the head of the agenda, or, once the agenda is empty, work in flight,
waves, blocks and time in turn, each kind going round (R51; log 1). -/

namespace Sys2Proof.Machine

/-- The cluster that a wave runs in. -/
def State.clusterOf (s : State) (u : Nat) : Nat := (((s.wave? u).bind (fun w => s.block? w.block)).map Block.cluster).getD 0

/-- The wave stands elsewhere than before, or is gone: its head group has issued, and is held, waits inside its instruction or has trapped.
An MXA at step 7 waits at issue all the while (R264). -/
def hasIssued (s t : State) (u : Nat) : Bool :=
  match t.wave? u with
  | some w => (match w.wait with | some (.matrix _) => false | _ => s.wave? u != some w)
  | none => true

/-- An issue that passes no instruction counts all the same for the waves that yielded to it (R212); one that passes has been counted
(`State.finish`). -/
def State.countIssue (s t : State) (u : Nat) : State :=
  if t.waves.all (fun w => w.yielded.isNone) || ! hasIssued s t u then t else { t with waves := t.waves.map (Wave.seeIssue u) }

/-- Wave `u` issues once (R28): its instruction acts, or waits for the backlog (R389). -/
def State.issueOnce (s : State) (u : Nat) : Host.Outcome State Fault Refusal :=
  match prepare s u with
  | (.run i, s') =>
    match exec i s' with
    | .next t => .next (s.countIssue (s'.underBacklog t (s.clusterOf u)) u)
    | o => o
  | (.done s', _) => .next (s.countIssue (s.noteWrites s') u)

/-- A wave's present lanes are all held at collectives (R31). -/
def State.gathered (s : State) (u : Nat) : Bool := (s.wave? u).any (fun w => w.allHeld && ! w.presentLanes.isEmpty)

/-- The collective of a wave whose last unheld lane has gone takes effect at once, whatever gap the instruction asked for (R31,
R211). -/
def State.collect (s : State) (u : Nat) : Host.Outcome State Fault Refusal :=
  let gap := ((s.wave? u).map Wave.stall).getD 0
  match (s.onWave u (fun w => { w with stall := 0 })).issueOnce u with
  | .next t => .next (t.onWave u (fun w => { w with stall := max gap w.stall }))
  | o => o

/-- Wave `u` issues, and what its instruction brings about at once follows. -/
def State.issueWave (s : State) (u : Nat) : Host.Outcome State Fault Refusal :=
  match s.issueOnce u with
  | .next t => if ! s.gathered u && t.gathered u then t.collect u else .next t
  | o => o

/-- Wave `u`, which wave `y` has yielded to, can issue: it would be counted as having issued. -/
def State.canIssue (s : State) (y u : Nat) : Bool :=
  match s.issueOnce u with
  | .next t => ! ((t.wave? y).bind Wave.yielded).any (fun (m : Yielded) => m.mates.contains u)
  | _ => true

/-- A YIELD ends when no wave is left that can issue and has not (R212). -/
def State.endYield (s : State) (u : Nat) : State :=
  match (s.wave? u).bind Wave.yielded with
  | some y => if y.mates.any (s.canIssue u) then s else s.onWave u (fun w => { w with yielded := none })
  | none => s

/-- Make one move. An instruction word is no event: it acts only when a wave issues it. -/
def State.move (s : State) (m : Move) : Host.Outcome State Fault Refusal :=
  match m with
  | .issue wave => (s.endYield wave).issueWave wave
  | .event i =>
    if i.isEvent then
      match exec i s with
      | .next t => .next (s.noteWrites t)
      | o => o
    else .next s
  | .tick ns cycles => .next (s.pass ns cycles)
  | .upset u => .next (s.upset u)

/-- The event that carries an operation of a wave on. -/
def Pend.next (w : Wave) (p : Pend) : Instr :=
  match p.kind with
  | .load => .loadDataReturn w.uid p.id (BitVec.allOnes 32)
  | .loadWs => .loadDataReturn w.uid p.id (BitVec.allOnes 32)
  | .store => .storeComplete w.uid p.id
  | .copy => .cplCopyComplete w.uid p.id
  | .atomic => .atomicReplyReturn w.uid p.id (BitVec.allOnes 32)
  | .reduce => .atomicReplyReturn w.uid p.id (BitVec.allOnes 32)
  | .matrix => .waveRetire w.uid
  | .receive => .chrecvMessageTaken w.uid p.id

/-- The events that carry a copy on. -/
def Copy.next (k : Copy) : List Instr :=
  match k.kind with
  | .query => [.wdqAnswer k.id]
  | .multi => ((List.range k.receivers.length).zip k.receivers).flatMap (fun r => r.2.left.map (fun c => Instr.cpmDelivery k.id r.1 c))
  | _ => k.left.map (fun c => Instr.copyChunkWrite k.id c)

/-- Matrix operations in progress. -/
def Block.steps (b : Block) : List Instr :=
  (b.ctxs.filter (fun e => e.2.op.isSome)).map (fun e => Instr.mxaStep b.uid e.1 false)

/-- Clusters with a resident block. -/
def State.occupied (s : State) : List Nat := (s.blocks.map Block.cluster).eraseDups

/-- Work in flight: operations, requests, copies, matrix steps, the checkers, records that wait for room. -/
def State.flights (s : State) : List Move :=
  (s.waves.flatMap (fun w => w.pend.map (Pend.next w)) ++ s.requests.map (fun r => Instr.serviceWarpPerform r.id)
    ++ s.copies.flatMap Copy.next ++ s.blocks.flatMap Block.steps
    ++ s.occupied.flatMap (fun c => [Instr.gckScan c, Instr.gckRequestTest c])
    ++ s.parts.flatMap (fun p => (p.queues.filter (fun e => (recordsFlight p e.1).isSome)).map (fun e => Instr.tasksPacket p.id e.1))).map Move.event

/-- Waves that may issue, those after the one that issued last first. -/
def State.issues (s : State) : List Move :=
  (s.waves.filter (fun w => s.issuing < w.uid) ++ s.waves.filter (fun w => w.uid ≤ s.issuing)).map (fun w => .issue w.uid)

/-- What a restarted control core still owes its partitions: the pre-emption, then the resume (R397). -/
def State.owed (s : State) : List Move :=
  s.module.restarts.map (fun n => if (s.part? n).any Part.preempted then .event (.preemptResume n) else .event (.preempt n))

/-- Regroups, retirements and deadlines, and what a restarted control core owes. -/
def State.endings (s : State) : List Move :=
  (s.blocks.map (fun b => Instr.reordRegroup b.uid) ++ s.waves.map (fun w => Instr.waveRetire w.uid)
    ++ s.waves.map (fun w => Instr.timeDeadlineReached w.uid)).map Move.event ++ s.owed

/-- Time: Noon's tick or the period boundary where one is due, else one nanosecond and one cycle of each occupied cluster. -/
def State.clockMove (s : State) : Move :=
  if s.module.time < s.due then .tick 1 (s.occupied.map (fun c => (c, 1)))
  else if s.module.noonDue ≤ s.module.periodDue then .event (.noonTick 0 [])
  else .event (.budgetPeriodBoundary [])

/-- A list that begins at another place. -/
def rotated {α : Type} (n : Nat) (l : List α) : List α := l.drop (n % l.length) ++ l.take (n % l.length)

/-- What the machine looks at in turn: each kind of move comes first once in four turns, and each piece of work within it once in a
round. -/
def State.work (s : State) : List Move :=
  let n := s.turn / 4
  (rotated s.turn [rotated n s.flights, s.issues, rotated n s.endings, [s.clockMove]]).flatten

/-- A move changes more than which wave issued last. -/
def State.moves (s : State) (m : Move) : Bool :=
  match s.move m with
  | .next s' => { s' with issuing := s.issuing } != s
  | _ => true

/-- The move that the machine makes when the agenda names none: the first in turn that changes the state. -/
def State.idleMove (s : State) : Move := (s.work.find? s.moves).getD s.clockMove

end Sys2Proof.Machine
end

