-- ==== Sys2Proof/Machine/Step.lean ====
section
/-! DEFINITION. One step: the move that the agenda names next, or the one that the machine makes by itself. -/

namespace Sys2Proof.Machine

/-- One step: a move, after which the queues and grids that can use a quantum now stand in the race (R347, R348). -/
def step (s : State) : Host.Outcome State Fault Refusal :=
  match (match s.agenda with
    | m :: rest => State.move { s with agenda := rest } m
    | [] => State.move { s with turn := s.turn + 1 } s.idleMove) with
  | .next t => .next t.rejoinAll
  | o => o

/-- The state with an instruction of twelve bytes stored where `step` fetches next (log 2). -/
def State.withFetchWord (s : State) (_nbits w : Nat) : State := s.withBytes (bytesOf 12 w)

end Sys2Proof.Machine
end

