-- ==== Sys2Proof/Safety.lean ====
section
/-! DEFINITION. What counts as a safe run, and the terms in which the statements speak of an instruction: the group that meets it, the
operands it can read, the registers it writes, and all that it leaves alone. -/

namespace Sys2Proof.Machine

/-! ### Runs -/

/-- A step that goes on: neither a fault nor a refusal. -/
def Goes (s : State) : Prop := ∃ t, step s = .next t

/-- One step from `s` gives `t`. -/
def StepsTo (s t : State) : Prop := step s = .next t

/-- States that a run from `s` comes to. -/
inductive Reaches : State → State → Prop where
  | here (s : State) : Reaches s s
  | more {s t u : State} (h : Reaches s t) (k : StepsTo t u) : Reaches s u

/-- Memory has its one canonical form. -/
abbrev State.MemOk (s : State) : Prop := Memory.wf s.mem

/-- A run is safe when every state that it comes to goes on and has its memory in canonical form. -/
def Safe (s : State) : Prop := ∀ t, Reaches s t → Goes t ∧ t.MemOk

/-! ### The group that meets an instruction -/

/-- The issuing wave's head group meets `x`, and its code goes on behind it: c.pc + 12 is an instruction too (R28, R170). -/
structure Meets (s : State) (x : Fields) (c : Issue) : Prop where
  head : s.issue? x = some c
  inside : c.pc + 12 < c.codeSize

/-- An operand's bits in lane `l`, as a value of one or of two registers. -/
def bits32 (s : State) (c : Issue) (o : Operand) (l : Nat) : Word := BitVec.ofNat 32 (readOp s c o 1 l).val
def bits64 (s : State) (c : Issue) (o : Operand) (l : Nat) : DWord := BitVec.ofNat 64 (readOp s c o 2 l).val

/-- Sources full in every lane of `active`, within the grant, and the destination free: what R56, R80 and R81 ask of an
instruction with an `active` lane. -/
structure Readable (s : State) (c : Issue) (srcs : List Src) (d : Operand) (n : Nat) : Prop where
  full : ∀ r ∈ srcs, ∀ l ∈ c.active, (readOp s c r.op r.regs l).full = true
  granted : c.active ≠ [] → ∀ r ∈ srcs, beyondGrant c.wave r.op r.regs = false
  place : c.active ≠ [] → beyondGrant c.wave d n = false
  free : c.active ≠ [] → destBusy c d n = false

/-- No source is poisoned in a lane of `active`: what R84 asks of an instruction that uses its operands. -/
def Sound (s : State) (c : Issue) (srcs : List Src) : Prop := ∀ r ∈ srcs, ∀ l ∈ c.active, (readOp s c r.op r.regs l).pz = false

/-- No guard is poisoned in the issuing group: what R84 asks of an instruction whose guard is a branch condition. -/
def GuardSound (c : Issue) (x : Fields) : Prop := ∀ l ∈ c.group, guardPoisoned c.wave x l = false

/-- The poison that an ALU result carries in lane `l`: any source's or the guard's (R184). -/
def carries (s : State) (c : Issue) (x : Fields) (srcs : List Src) (l : Nat) : Bool :=
  srcs.any (fun r => (readOp s c r.op r.regs l).pz) || guardPoisoned c.wave x l

/-! ### What an instruction leaves alone -/

/-- Only the waves differ, and of the other waves only what a YIELD waits for (R212). -/
structure OnlyIssuer (s t : State) (c : Issue) : Prop where
  rest : { t with waves := s.waves } = s
  others : ∀ u, u ≠ c.wave.uid → t.wave? u = (s.wave? u).map (Wave.seeIssue c.wave.uid)

/-- Wave `w` stands past the instruction: the group's counters at `to_`, its held marks cleared, the STALL gap begun, every other
lane as it was (R29, R31, R177). -/
structure PastIt (c : Issue) (x : Fields) (to_ : Nat → Nat) (old w : Wave) : Prop where
  count : w.lanes.length = old.lanes.length
  lane : ∀ l, w.lane l = if l ∈ c.group then { old.lane l with pc := to_ l, held := false } else old.lane l
  stall : w.stall = x.stall.toNat
  wait : w.wait = none

/-- The element that register `i` of a result of several registers receives. -/
def element (val : Nat) (pz : Bool) (i : Nat) : Elem := { val := BitVec.ofNat 32 (val >>> (32 * i)), full := true, pz := pz }

/-- What V register `r` of lane `l` holds after D, taken as `n` registers, has received `val l` with poison `pz l` in every lane of
`active` (R184). -/
def afterV (c : Issue) (d : Operand) (n : Nat) (val : Nat → Nat) (pz : Nat → Bool) (old : Wave) (r l : Nat) : Elem :=
  match d with
  | .v b => if b.val ≤ r ∧ r < b.val + n ∧ l ∈ c.active then element (val l) (pz l) (r - b.val) else old.readV r l
  | _ => old.readV r l

/-- The same of S register `r`: written once, poisoned where any lane of `active` would poison it (R184). -/
def afterS (c : Issue) (d : Operand) (n : Nat) (val : Nat → Nat) (pz : Nat → Bool) (old : Wave) (r : Nat) : Elem :=
  match d, c.active with
  | .s b, l :: _ => if b.val ≤ r ∧ r < b.val + n then element (val l) (c.active.any pz) (r - b.val) else old.readS r
  | _, _ => old.readS r

/-- The same of predicate `q`; P7 keeps its true (R72). -/
def afterP (c : Issue) (d : Operand) (val : Nat → Nat) (pz : Nat → Bool) (old : Wave) (q l : Nat) : Pred :=
  match d with
  | .p b => if q = b.val ∧ q ≠ 7 ∧ l ∈ c.active then { val := decide (val l ≠ 0), pz := pz l } else old.readP q l
  | _ => old.readP q l

/-- The registers of `w` are those of `old` after D has received its result, and nothing else of the wave differs but the count of
writes that the shadow keeps (R387). -/
structure Holds (c : Issue) (d : Operand) (n : Nat) (val : Nat → Nat) (pz : Nat → Bool) (old w : Wave) : Prop where
  vs : ∀ r l, l < 32 → w.readV r l = afterV c d n val pz old r l
  ss : ∀ r, w.readS r = afterS c d n val pz old r
  ps : ∀ q l, l < 32 → w.readP q l = afterP c d val pz old q l
  rest : { w with v := old.v, s := old.s, p := old.p, written := old.written } = old

/-- `s` with the translations that `u` has used: its cached entries and walker reads, and one more draw (R358, R373). -/
def Translated (s u : State) : State :=
  { s with tlb := u.tlb, module := { s.module with walked := u.module.walked }, draws := s.draws + 1 }

/-- The instruction behind this one (R29). -/
def onward (c : Issue) : Nat → Nat := fun _ => c.pc + 12

/-- The whole of an instruction that steps past: `t` is `s'` with the issuing wave as `own`, its counters at `to_`, the STALL gap
begun, and other waves' YIELDs told. -/
def Past (s' t : State) (c : Issue) (x : Fields) (to_ : Nat → Nat) (own : Wave) : Prop :=
  OnlyIssuer s' t c ∧ ∃ w, t.wave? c.wave.uid = some w ∧ PastIt c x to_ own w ∧
    { w with lanes := own.lanes, stall := own.stall, wait := own.wait } = own

/-- The whole of an instruction that computes D and steps past. -/
def Wrote (s t : State) (c : Issue) (x : Fields) (n : Nat) (val : Nat → Nat) (pz : Nat → Bool) : Prop :=
  ∃ own, Holds c x.d n val pz c.wave own ∧ Past s t c x (onward c) own

/-- V register `r` of lane `l`, and S register `r`, after D, taken as `n` registers, has become empty in the lanes of `active` (R80). -/
def emptyV (c : Issue) (d : Operand) (n : Nat) (old : Wave) (r l : Nat) : Elem :=
  match d with
  | .v b => if b.val ≤ r ∧ r < b.val + n ∧ l ∈ c.active then { old.readV r l with full := false } else old.readV r l
  | _ => old.readV r l

def emptyS (c : Issue) (d : Operand) (n : Nat) (old : Wave) (r : Nat) : Elem :=
  match d with
  | .s b => if b.val ≤ r ∧ r < b.val + n ∧ c.active ≠ [] then { old.readS r with full := false } else old.readS r
  | _ => old.readS r

/-- D, taken as `n` registers, is empty in the lanes of `active`, values and poison kept; nothing else of the wave differs (R80). -/
structure Emptied (c : Issue) (d : Operand) (n : Nat) (old w : Wave) : Prop where
  vs : ∀ r l, l < 32 → w.readV r l = emptyV c d n old r l
  ss : ∀ r, w.readS r = emptyS c d n old r
  rest : { w with v := old.v, s := old.s, written := old.written } = old

/-! ### Accesses -/

/-- An address that no case of R118 turns away: aligned, in range, granted, outside the spill area, the constants and the private
window. -/
structure LegalAt (s : State) (c : Issue) (spc : Space) (n a : Nat) : Prop where
  aligned : a % n = 0
  range : spc = .g → a < 2 ^ 58
  granted : inGrant s c spc a n = true
  spill : spc = .pv → a + n ≤ 0xF000
  const : spc = .k → a + n ≤ c.grid.ksize
  window : spc = .g → inPrivate c.part a n = false

/-- Every lane's address is legal and mapped with the permissions it needs; `place` says where it lies. -/
structure Mapped (s : State) (c : Issue) (spc : Space) (n : Nat) (r w : Bool) (lanes : List Nat) (addr : Nat → Nat)
    (place : Nat → Nat × Nat × Nat) : Prop where
  legal : ∀ l ∈ lanes, LegalAt s c spc n (addr l)
  found : ∀ l ∈ lanes, locate s c spc l (addr l) r w = .ok (place l)

/-- The core's dirty sectors can all be written back, where a release at `scope` asks for it: its tile runs, their homes have power, and
no write-back meets an error that cannot be corrected (R125, R138, R397). -/
def CanRelease (s : State) (c : Issue) (scope : Scope) : Prop :=
  scope.wideCl = true → ∀ d ∈ s.dirty, d.core = c.core → s.l1Up c.core = true ∧ s.homeUp c.part (32 * d.sector) = true ∧ s.backBad d = false

/-- `s` once a release at `scope` has written the core's dirty sectors back (R122, R138). -/
def released (s : State) (c : Issue) (scope : Scope) : State :=
  if scope.wideCl then s.flush c.part (fun d => d.core == c.core) else s

/-- Nothing holds the access back: no acquire under way, no atomic of the wave on its sectors, room in its counter and in the
range counts that it enters (R87, R91, R240, R241). -/
structure Unheld (s : State) (c : Issue) (cls : Nat) (ranges : BitVec 9) (touched : List Spot) : Prop where
  held : accessHeld c.wave = false
  atomics : behindAtomic c.wave touched = false
  room : c.wave.counter cls < 63
  counts : ∀ i, i < 9 → ranges.getLsbD i = true → rangeCount s c.wave i < 63

/-- The sectors of `n`-byte accesses. -/
def sectorsAt (spc : Space) (n : Nat) (places : List (Nat × Nat × Nat)) : List Spot := places.flatMap (fun p => spots spc p.2.2 p.1 n)

/-- The operation that an instruction leaves under way: the wave's newest, and the module's. -/
def newOp (s : State) (c : Issue) (x : Fields) (kind : OpKind) (cls : Option Nat) (size : Nat) (left : List Access) (ranges : BitVec 9) :
    Pend :=
  { id := c.wave.nextOp, kind := kind, cls := cls, dst := .zero, size := size, signed := false, alu := 0, space := x.space,
    sspace := .g, order := x.order, scope := actingScope x.space x.scope, left := left, lanes := maskOf c.active,
    uniform := left.length == 1, carried := maskOf c.active, ranges := ranges, seq := s.fresh, rank := c.wave.issued.getD (cls.getD 6) 0,
    done := false }

/-- The wave with one more operation under way. -/
def Wave.starts (w : Wave) (p : Pend) : Wave :=
  { w with pend := w.pend ++ [p], nextOp := w.nextOp + 1, issued := w.issued.set (p.cls.getD 6) (w.issued.getD (p.cls.getD 6) 0 + 1) }

/-! ### Classes of instructions -/

/-- Whenever its group meets it and can read its operands, the instruction goes on and all that it does is to give D the value that
`val` states in each lane of `active`, with the poison of its sources and its guard (R184). -/
def Computes (mk : Fields → Instr) (h : Fields → Shape) (val : State → Issue → Fields → Nat → Nat) : Prop :=
  ∀ s x c, Meets s x c → Readable s c ((h x).srcs x) x.d (h x).d →
    ∃ t, exec (mk x) s = .next t ∧ Wrote s t c x (h x).d (val s c x) (carries s c x ((h x).srcs x))

/-- The instructions that compute D lane by lane, with the registers that D, A, B and C take (R184, R186). -/
def laneShape : Instr → Option (Fields × Shape)
  | .iadd x | .isub x | .imul x | .imulh x | .imnxMin x | .imnxMax x | .logAnd x | .logOr x | .logXor x | .logAndn x | .shShl x
  | .shShr x | .shSar x | .shRot x | .icmp _ x | .fcmp _ x | .plopAnd x | .plopOr x | .plopXor x | .plopAndn x | .fadd x | .fsub x
  | .fmul x | .fmnxMin x | .fmnxMax x | .pkadd x | .pkmul x => some (x, shape2)
  | .iabnAbs x | .iabnNeg x | .not x | .popc x | .clz x | .brev x | .fclass x | .frcp x | .frsq x | .fsqrt x | .fexp2 x | .flog2 x
  | .fsin x | .fcos x => some (x, shape1)
  | .imad x | .tern x | .dshr x | .bfx x | .bytx x | .ffma x | .pkfma x => some (x, shape3)
  | .bfi x => some (x, { shape3 with old := true })
  | .iadd64 x | .isub64 x => some (x, shapeLong)
  | .icmp64 _ x => some (x, { d := 1, a := 2, b := 2, c := 0, old := false })
  | .lea x => some (x, { d := 2, a := 2, b := 1, c := 1, old := false })
  | .mov x => some (x, { d := (effectiveTy .mov x).regs, a := (effectiveTy .mov x).regs, b := 0, c := 0, old := false })
  | .cvt x => some (x, { d := (effectiveTy .cvt x).regs, a := ((cvtSource x).getD .f32).regs, b := 0, c := 0, old := false })
  | _ => none

/-- The instructions for which a poisoned guard in the issuing group is a use of poison (R84). -/
def usesGuard : Instr → Bool
  | .bra _ | .brx _ | .call _ | .callx _ | .ret _ | .exit _ | .ld _ | .st _ | .ldw _ | .pref _ | .cpl _ | .atomAdd _ | .atomMin _
  | .atomMax _ | .atomAnd _ | .atomOr _ | .atomXor _ | .atomExch _ | .cas _ | .redAdd _ | .redMin _ | .redMax _ | .redAnd _
  | .redOr _ | .redXor _ | .cpt _ | .cpm _ | .mxa _ | .acst _ | .acld _ | .chsend _ | .chrecv _ | .chpoll _ | .chclose _
  | .tspawn _ | .wdq _ | .fence _ | .pfenceTile _ | .pfenceMod _ | .waitcnt _ _ | .range _ => true
  | _ => false

/-- The instructions of MAJOR codes that only the handler level runs (R381). -/
def isPrivileged : Instr → Bool
  | .movcr _ | .movrc _ | .eret _ | .shdw _ | .tlbi _ | .halt _ => true
  | _ => false

/-- The wave-collective instructions (R31). -/
def isCollective : Instr → Bool
  | .bara _ | .bars _ | .reord _ => true
  | _ => false

/-- The issuing group is the whole wave, at one address: a collective takes effect (R31). -/
structure Whole (c : Issue) : Prop where
  all : c.group.length = c.wave.presentLanes.length
  one : ∀ l ∈ c.wave.presentLanes, (c.wave.lane l).pc = c.pc

end Sys2Proof.Machine
end

