-- ==== Sys2Proof/Certificates/Slice0/Obligations.lean ====
section
/-! DEFINITION. The statements for the provers, from the numbered rules of the spec. -/

section

open Sys2Proof Sys2Proof.Machine

namespace Sys2Proof

/-! ### Lane-by-lane results -/

/-- R187: integer arithmetic on 32-bit words, wrapping. -/
def integerArithmetic : Prop :=
  Computes .iadd (fun _ => shape2) (fun s c x l => (bits32 s c x.a l + bits32 s c x.b l).toNat) ∧
  Computes .isub (fun _ => shape2) (fun s c x l => (bits32 s c x.a l - bits32 s c x.b l).toNat) ∧
  Computes .imul (fun _ => shape2) (fun s c x l => (bits32 s c x.a l * bits32 s c x.b l).toNat) ∧
  Computes .imad (fun _ => shape3) (fun s c x l => (bits32 s c x.a l * bits32 s c x.b l + bits32 s c x.c l).toNat) ∧
  Computes .imulh (fun _ => shape2) (fun s c x l =>
    if isSigned .imulh x then (((bits32 s c x.a l).signExtend 64 * (bits32 s c x.b l).signExtend 64).extractLsb' 32 32).toNat
    else (((bits32 s c x.a l).zeroExtend 64 * (bits32 s c x.b l).zeroExtend 64).extractLsb' 32 32).toNat) ∧
  Computes .imnxMin (fun _ => shape2) (fun s c x l =>
    let a := bits32 s c x.a l
    let b := bits32 s c x.b l
    (if (if isSigned .imnxMin x then a.sle b else a.ule b) then a else b).toNat) ∧
  Computes .imnxMax (fun _ => shape2) (fun s c x l =>
    let a := bits32 s c x.a l
    let b := bits32 s c x.b l
    (if (if isSigned .imnxMax x then a.sle b else a.ule b) then b else a).toNat) ∧
  Computes .iabnAbs (fun _ => shape1) (fun s c x l =>
    let a := bits32 s c x.a l
    (if isSigned .iabnAbs x && a.msb then -a else a).toNat) ∧
  Computes .iabnNeg (fun _ => shape1) (fun s c x l => (- bits32 s c x.a l).toNat)

/-- R188, R189: 64-bit sums on register pairs, and LEA's base plus scaled index. -/
def longSums : Prop :=
  Computes .iadd64 (fun _ => shapeLong) (fun s c x l => (bits64 s c x.a l + bits64 s c x.b l).toNat) ∧
  Computes .isub64 (fun _ => shapeLong) (fun s c x l => (bits64 s c x.a l - bits64 s c x.b l).toNat) ∧
  Computes .lea (fun _ => { d := 2, a := 2, b := 1, c := 1, old := false }) (fun s c x l =>
    let b := bits32 s c x.b l
    (bits64 s c x.a l + (if isSigned .lea x then b.signExtend 64 else b.zeroExtend 64) <<< ((bits32 s c x.c l).toNat % 32)).toNat)

/-- R190, R191: bitwise logic, and TERN's truth table. -/
def logic : Prop :=
  Computes .logAnd (fun _ => shape2) (fun s c x l => (bits32 s c x.a l &&& bits32 s c x.b l).toNat) ∧
  Computes .logOr (fun _ => shape2) (fun s c x l => (bits32 s c x.a l ||| bits32 s c x.b l).toNat) ∧
  Computes .logXor (fun _ => shape2) (fun s c x l => (bits32 s c x.a l ^^^ bits32 s c x.b l).toNat) ∧
  Computes .logAndn (fun _ => shape2) (fun s c x l => (bits32 s c x.a l &&& ~~~ bits32 s c x.b l).toNat) ∧
  Computes .not (fun _ => shape1) (fun s c x l => (~~~ bits32 s c x.a l).toNat) ∧
  Computes .tern (fun _ => shape3) (fun s c x l =>
    bitsFrom 32 (fun i => x.opt.getLsbD
      (((bits32 s c x.a l).getLsbD i).toNat + 2 * ((bits32 s c x.b l).getLsbD i).toNat + 4 * ((bits32 s c x.c l).getLsbD i).toNat)))

/-- R192, R193: shifts whose amounts are not masked, the rotation, and the shift of a pair of registers. -/
def shifts : Prop :=
  Computes .shShl (fun _ => shape2) (fun s c x l => (bits32 s c x.a l <<< (bits32 s c x.b l).toNat).toNat) ∧
  Computes .shShr (fun _ => shape2) (fun s c x l => (bits32 s c x.a l >>> (bits32 s c x.b l).toNat).toNat) ∧
  Computes .shSar (fun _ => shape2) (fun s c x l => ((bits32 s c x.a l).sshiftRight (bits32 s c x.b l).toNat).toNat) ∧
  Computes .shRot (fun _ => shape2) (fun s c x l => ((bits32 s c x.a l).rotateLeft (bits32 s c x.b l).toNat).toNat) ∧
  Computes .dshr (fun _ => shape3) (fun s c x l =>
    (((bits32 s c x.b l ++ bits32 s c x.a l) >>> ((bits32 s c x.c l).toNat % 64)).setWidth 32).toNat)

/-- R194 to R197: bit fields, counts, and the byte permutation. -/
def bitFields : Prop :=
  let pos := fun (b : Word) => min (b.toNat % 256) 32
  let len := fun (b c : Word) => min (c.toNat % 256) (32 - pos b)
  Computes .bfx (fun _ => shape3) (fun s c x l =>
    let a := bits32 s c x.a l
    let p := pos (bits32 s c x.b l)
    let n := len (bits32 s c x.b l) (bits32 s c x.c l)
    bitsFrom 32 (fun i => if i < n then a.getLsbD (p + i) else isSigned .bfx x && decide (0 < n) && a.getLsbD (p + n - 1))) ∧
  Computes .bfi (fun _ => { shape3 with old := true }) (fun s c x l =>
    let p := pos (bits32 s c x.b l)
    let n := len (bits32 s c x.b l) (bits32 s c x.c l)
    bitsFrom 32 (fun i => if p ≤ i ∧ i < p + n then (bits32 s c x.a l).getLsbD (i - p) else (bits32 s c x.d l).getLsbD i)) ∧
  Computes .popc (fun _ => shape1) (fun s c x l => (bits32 s c x.a l).cpop.toNat) ∧
  Computes .clz (fun _ => shape1) (fun s c x l => (bits32 s c x.a l).clz.toNat) ∧
  Computes .brev (fun _ => shape1) (fun s c x l => (bits32 s c x.a l).reverse.toNat) ∧
  Computes .bytx (fun _ => shape3) (fun s c x l =>
    let bytes := bits32 s c x.b l ++ bits32 s c x.a l
    bitsFrom 32 (fun i =>
      let f := (bits32 s c x.c l).extractLsb' (i / 8 * 5) 5
      let y := bytes.extractLsb' (8 * (f.toNat % 8)) 8
      match f.toNat / 8 with
      | 0 => y.getLsbD (i % 8)
      | 1 => false
      | 2 => y.msb
      | _ => y.reverse.getLsbD (i % 8)))

end Sys2Proof

/-- R187 to R197: what every instruction of the integer unit computes, lane by lane. -/
def Obligations.IntegerUnit : Prop := integerArithmetic ∧ longSums ∧ logic ∧ shifts ∧ bitFields

namespace Sys2Proof

/-- The relation of two `n`-bit words that an integer condition tests (R179, R201). -/
def conditionHolds {n : Nat} (k : Fin 10) (a b : BitVec n) : Bool :=
  match k.val with
  | 0 => a == b
  | 1 => a != b
  | 2 => a.slt b
  | 3 => a.sle b
  | 4 => b.slt a
  | 5 => b.sle a
  | 6 => a.ult b
  | 7 => a.ule b
  | 8 => b.ult a
  | _ => b.ule a

/-- R201, R203, R205: integer comparisons put their condition into a predicate, PLOP combines predicates, PMOV moves between
predicates and registers. -/
def integerCompares : Prop :=
  (∀ k, Computes (.icmp k) (fun _ => shape2) (fun s c x l => (conditionHolds k (bits32 s c x.a l) (bits32 s c x.b l)).toNat)) ∧
  (∀ k, Computes (.icmp64 k) (fun _ => { d := 1, a := 2, b := 2, c := 0, old := false })
    (fun s c x l => (conditionHolds k (bits64 s c x.a l) (bits64 s c x.b l)).toNat)) ∧
  Computes .plopAnd (fun _ => shape2) (fun s c x l => (bits32 s c x.a l &&& bits32 s c x.b l).toNat) ∧
  Computes .plopOr (fun _ => shape2) (fun s c x l => (bits32 s c x.a l ||| bits32 s c x.b l).toNat) ∧
  Computes .plopXor (fun _ => shape2) (fun s c x l => (bits32 s c x.a l ^^^ bits32 s c x.b l).toNat) ∧
  Computes .plopAndn (fun _ => shape2) (fun s c x l => if bits32 s c x.b l = 0 then (bits32 s c x.a l).toNat else 0) ∧
  Computes .pmov (fun _ => shape1) (fun s c x l =>
    (match x.a with
      | .p _ | .v _ => bits32 s c x.a l != 0
      | _ => (bits32 s c x.a l).getLsbD l).toNat)

/-- R202, R206: FCMP compares exact values, NaN making them unordered, and FCLASS sets the one bit of its operand's class. -/
def floatCompares : Prop :=
  (∀ k, Computes (.fcmp k) (fun _ => shape2) (fun s c x l =>
    let f := floatOf .fcmp x
    let r := (f.decode (bits32 s c x.a l).toNat).relation (f.decode (bits32 s c x.b l).toNat)
    let ordered := match k.val % 8 with
      | 0 => r == .eq
      | 1 => r == .lt || r == .gt
      | 2 => r == .lt
      | 3 => r == .lt || r == .eq
      | 4 => r == .gt
      | 5 => r == .gt || r == .eq
      | 6 => r != .uno
      | _ => false
    (if k.val = 7 then r == .uno else if k.val < 8 then ordered else r == .uno || ordered).toNat)) ∧
  Computes .fclass (fun _ => shape1) (fun s c x l =>
    let f := floatOf .fclass x
    let w := (bits32 s c x.a l).toNat
    let neg := w.testBit (f.ebits + f.mbits)
    let e := w / 2 ^ f.mbits % 2 ^ f.ebits
    let m := w % 2 ^ f.mbits
    let top := e = 2 ^ f.ebits - 1
    2 ^ (if f.top = .nanOnly ∧ top ∧ m = 2 ^ f.mbits - 1 then 9
      else if f.top = .ieee ∧ top ∧ m ≠ 0 then (if w.testBit (f.mbits - 1) then 9 else 8)
      else if f.top = .ieee ∧ top then (if neg then 0 else 7)
      else if e ≠ 0 then (if neg then 1 else 6)
      else if m ≠ 0 then (if neg then 2 else 5)
      else if neg then 3 else 4))

end Sys2Proof

/-- R201 to R206: comparisons, predicate logic and classes. -/
def Obligations.Compares : Prop := integerCompares ∧ floatCompares

namespace Sys2Proof

/-- R199, R200, R204 and NOP: a move copies its operand, SEL the operand that its predicate chooses, MOVSR the element of the lane that
it names; NOP moves nothing. -/
def moves : Prop :=
  Computes .mov (fun x => { d := (effectiveTy .mov x).regs, a := (effectiveTy .mov x).regs, b := 0, c := 0, old := false })
    (fun s c x l => (readOp s c x.a (effectiveTy .mov x).regs l).val) ∧
  (∀ s x c, Meets s x c → ∃ t, exec (.nop x) s = .next t ∧ Past s t c x (onward c) c.wave) ∧
  (∀ s x c q, Meets s x c → x.c = .p q →
    let n := (effectiveTy .sel x).regs
    let chosen := fun l => readOp s c (if (c.wave.readP q l).val then x.a else x.b) n l
    (c.active ≠ [] → beyondGrant c.wave x.a n = false ∧ beyondGrant c.wave x.b n = false ∧ beyondGrant c.wave x.d n = false ∧
      destBusy c x.d n = false) →
    (∀ l ∈ c.active, (chosen l).full = true) →
    ∃ t, exec (.sel x) s = .next t ∧
      Wrote s t c x n (fun l => (chosen l).val)
        (fun l => (chosen l).pz || (c.wave.readP q l).pz || guardPoisoned c.wave x l)) ∧
  (∀ s x c r, Meets s x c → x.a = .v r →
    let n := (effectiveTy .movsr x).regs
    Readable s c [srcB x 1] x.d n → Sound s c [srcB x 1] → (c.active ≠ [] → beyondGrant c.wave x.a n = false) →
    let k := (bits32 s c x.b 0).toNat
    (c.wave.isLive k = true → (readOp s c x.a n k).full = true) →
    ∃ t, exec (.movsr x) s = .next t ∧
      Wrote s t c x n (fun _ => if c.wave.isLive k then (readOp s c x.a n k).val else 0)
        (fun _ => (if c.wave.isLive k then (readOp s c x.a n k).pz else true) || c.guardPz x))

end Sys2Proof

/-- R216, R217: the sum, difference, product and fused product and sum are exact and rounded once; FMNX delivers an operand
unrounded, a number before a NaN and −0 below +0. -/
def Obligations.FloatArithmetic : Prop :=
  let value := fun (f : FloatFmt) s c o l => f.decode (bits32 s c o l).toNat
  Computes .fadd (fun _ => shape2) (fun s c x l => (floatOf .fadd x).encode
    ((value (floatOf .fadd x) s c x.a l).add (value (floatOf .fadd x) s c x.b l))) ∧
  Computes .fsub (fun _ => shape2) (fun s c x l => (floatOf .fsub x).encode
    ((value (floatOf .fsub x) s c x.a l).add (value (floatOf .fsub x) s c x.b l).negate)) ∧
  Computes .fmul (fun _ => shape2) (fun s c x l => (floatOf .fmul x).encode
    ((value (floatOf .fmul x) s c x.a l).mul (value (floatOf .fmul x) s c x.b l))) ∧
  Computes .ffma (fun _ => shape3) (fun s c x l => (floatOf .ffma x).encode
    ((value (floatOf .ffma x) s c x.a l).mulAdd (value (floatOf .ffma x) s c x.b l) (value (floatOf .ffma x) s c x.c l))) ∧
  (∀ greater, Computes (if greater then .fmnxMax else .fmnxMin) (fun _ => shape2) (fun s c x l =>
    let f := floatOf (if greater then .fmnxMax else .fmnxMin) x
    let a := (bits32 s c x.a l).toNat % 2 ^ f.width
    let b := (bits32 s c x.b l).toNat % 2 ^ f.width
    let below := fun (u v : Nat) => (f.decode u).relation (f.decode v) == .lt
      || (f.decode u).relation (f.decode v) == .eq && u.testBit (f.width - 1)
    if f.decode a = .nan ∧ f.decode b = .nan then f.canonicalNan
    else if f.decode a = .nan then b
    else if f.decode b = .nan then a
    else if below a b != greater then a else b))

/-- R218, R219: packed arithmetic works on each half by itself, B's halves taken as the arrangement says; each elementary
function completes and delivers what the model's function of that name computes. The model's part: The elementary functions are
the model's own definitions here, whatever they compute: O5 says what they are at the special values, and how far they are
refined before rounding is the model's (log 13). -/
def Obligations.PackedAndElementary : Prop :=
  let value := fun (f : FloatFmt) s c o l => f.decode (bits32 s c o l).toNat
  let part := fun (f : FloatFmt) s c o l (j : Nat) => f.decode ((bits32 s c o l).extractLsb' (16 * j) 16).toNat
  let other := fun (x : Fields) (j : Nat) => match (x.opt.extractLsb' 0 2).toNat with | 0 => j | 1 => 1 - j | 2 => 0 | _ => 1
  let both := fun (f : FloatFmt) (r : Nat → Machine.Num) => f.encode (r 0) + 2 ^ 16 * f.encode (r 1)
  Computes .pkadd (fun _ => shape2) (fun s c x l => let f := floatOf .pkadd x
    both f (fun j => (part f s c x.a l j).add (part f s c x.b l (other x j)))) ∧
  Computes .pkmul (fun _ => shape2) (fun s c x l => let f := floatOf .pkmul x
    both f (fun j => (part f s c x.a l j).mul (part f s c x.b l (other x j)))) ∧
  Computes .pkfma (fun _ => shape3) (fun s c x l => let f := floatOf .pkfma x
    both f (fun j => (part f s c x.a l j).mulAdd (part f s c x.b l (other x j)) (part f s c x.c l j))) ∧
  Computes .frcp (fun _ => shape1) (fun s c x l => (floatOf .frcp x).encode (value (floatOf .frcp x) s c x.a l).recip) ∧
  Computes .frsq (fun _ => shape1) (fun s c x l => (floatOf .frsq x).encode (value (floatOf .frsq x) s c x.a l).rsqrt) ∧
  Computes .fsqrt (fun _ => shape1) (fun s c x l => (floatOf .fsqrt x).encode (value (floatOf .fsqrt x) s c x.a l).sqrt) ∧
  Computes .fexp2 (fun _ => shape1) (fun s c x l => fexp2 (floatOf .fexp2 x) (value (floatOf .fexp2 x) s c x.a l)) ∧
  Computes .flog2 (fun _ => shape1) (fun s c x l => flog2 (floatOf .flog2 x) (value (floatOf .flog2 x) s c x.a l)) ∧
  Computes .fsin (fun _ => shape1) (fun s c x l => fsin (floatOf .fsin x) (value (floatOf .fsin x) s c x.a l)) ∧
  Computes .fcos (fun _ => shape1) (fun s c x l => fcos (floatOf .fcos x) (value (floatOf .fcos x) s c x.a l))

/-- R219's special cases, and the exact ones: 1/±0, the roots of ±0 and of negative numbers, 2^n and log₂ 2^n for integers n.
The model's part: The enclosures behind the other values are the model's (log 13). -/
def Obligations.ElementarySpecialCases : Prop :=
  ∀ f ∈ [fp32, fp16, bf16],
    (∀ neg m e, m ≠ 0 → f.encode (Machine.Num.fin true m e).sqrt = f.canonicalNan ∧ f.encode (Machine.Num.fin true m e).rsqrt = f.canonicalNan ∧
      flog2 f (.fin true m e) = f.canonicalNan ∧ f.encode (Machine.Num.fin neg 0 e).recip = f.encode (.inf neg) ∧
      f.encode (Machine.Num.fin neg 0 e).sqrt = f.encode (.fin neg 0 0) ∧ f.encode (Machine.Num.fin neg 0 e).rsqrt = f.encode (.inf neg) ∧
      flog2 f (.fin neg 0 e) = f.encode (.inf true)) ∧
    fsin f (.inf false) = f.canonicalNan ∧ fcos f (.inf true) = f.canonicalNan ∧
    (∀ neg e, fsin f (.fin neg 0 e) = f.encode (.fin neg 0 0) ∧ fcos f (.fin neg 0 e) = f.encode (.ofInt 1)) ∧
    (∀ n : Int, fexp2 f (.ofInt n) = f.encode (.fin false 1 n)) ∧
    (∀ (k : Nat) (e : Int), flog2 f (.fin false (2 ^ k) e) = f.encode (.ofInt (k + e)))

/-- R21, R99, R100: encoding a decoded value gives its pattern again, NaNs apart: no format loses a value of its own. -/
def Obligations.FloatRoundTrip : Prop :=
  ∀ f ∈ [fp32, fp16, bf16, e5m2, e4m3, e2m1], ∀ w, w < 2 ^ f.width → f.decode w ≠ .nan → f.encode (f.decode w) = w

/-- R21: of all finite codes the encoder takes one nearest to the exact value m × 2^e, and of two equally near ones the even
one. -/
def Obligations.RoundsToNearestEven : Prop :=
  ∀ f ∈ [fp32, fp16, bf16, e5m2, e4m3, e2m1], ∀ m e w a x b y, m ≠ 0 → w ≤ f.maxCode → f.nearest m e ≤ f.maxCode →
    f.decode (f.encode (.fin false m e)) = .fin false a x → f.decode w = .fin false b y →
    let base := min e (min x y)
    let far := fun (n : Nat) (z : Int) => ((scaleTo base m e : Int) - scaleTo base n z).natAbs
    far a x < far b y ∨ far a x = far b y ∧ (f.encode (.fin false m e) = w ∨ f.encode (.fin false m e) % 2 = 0)

/-- R106, R220, R221: a conversion delivers the value in the format asked for and poisons a NaN that the format cannot hold;
CVTF converts n elements of a packed register from one slot's format into another's and leaves D's other bits. -/
def Obligations.Conversions : Prop :=
  (∀ s x c, Meets s x c →
    let dt := effectiveTy .cvt x
    let st := (cvtSource x).getD .f32
    Readable s c [srcA x st.regs] x.d dt.regs →
    let value := fun l => (fmtOf st).decode (readOp s c x.a st.regs l).val
    ∃ t, exec (.cvt x) s = .next t ∧
      Wrote s t c x dt.regs (fun l => placeResult dt ((fmtOf dt).encode (value l)))
        (fun l => (value l == .nan && ! (fmtOf dt).hasNan) || carries s c x [srcA x st.regs] l)) ∧
  (∀ s x c, Meets s x c → c.active ≠ [] →
    slotUnusable c x.b = false → slotUnusable c x.c = false →
    let src := slotFmt c x.b
    let dst := slotFmt c x.c
    let ws := src.width
    let wd := dst.width
    let p := x.opt.toNat % 8
    (if ws = wd then p = 0 else p < max ws wd / min ws wd) →
    let srcs := if wd < ws then [srcA x 1, srcD x 1] else [srcA x 1]
    Readable s c srcs x.d 1 →
    let n := 32 / max ws wd
    let elem := fun l i => src.decode ((bits32 s c x.a l).toNat / 2 ^ ((if ws < wd then i + p * n else i) * ws) % 2 ^ ws)
    ∃ t val, exec (.cvtf x) s = .next t ∧
      Wrote s t c x 1 val (fun l => ((List.range n).any (fun i => elem l i == .nan && ! dst.hasNan)) || carries s c x srcs l) ∧
      ∀ l ∈ c.active,
        (∀ i, i < n → val l / 2 ^ ((if wd < ws then i + p * n else i) * wd) % 2 ^ wd = dst.encode (elem l i) % 2 ^ wd) ∧
        (wd < ws → ∀ k, k < 32 → k < p * n * wd ∨ (p * n + n) * wd ≤ k → (val l).testBit k = (bits32 s c x.d l).getLsbD k))

/-- R222, R223: QBLK gives each block the scale of its greatest magnitude and each element its quotient; DQBLK multiplies back.
The model's part: A quotient at or above 61,440 goes to infinity in E5M2, which is the model's reading of R222 and R106 (log
63). -/
def Obligations.BlockConversions : Prop :=
  (∀ s x c, Meets s x c → c.active ≠ [] → blockSlotOk c x.b = true →
    let b := slotBlk (slotWord c x.b)
    let n := if b = 6 then 2 else 1
    (b = 6 → oddBase x.a = false) → Readable s c [srcA x n] x.d 1 →
    let f := slotFmt c x.b
    let elems := fun l => (List.range n).map (fun j => (floatOf .qblk x).decode ((readOp s c x.a n l).val / 2 ^ (32 * j) % 2 ^ 32))
    let peers := fun l => c.active.filter (fun k => b != 4 || k / 16 == l / 16)
    ∃ t val, exec (.qblk x) s = .next t ∧
      Wrote s t c x 1 val (fun l => (peers l).any (carries s c x [srcA x n])) ∧
      ∀ l ∈ c.active,
        let block := (peers l).flatMap elems
        (block.any (fun v => match v with | .fin .. => false | _ => true) = true →
          val l = 0xFF * 2 ^ 24 + ((elems l).mapIdx (fun j _ => f.encode (.fin false 0 0) * 2 ^ (8 * j))).sum) ∧
        (block.any (fun v => match v with | .fin .. => false | _ => true) = false →
          let amax := block.foldl absMax (.fin false 0 0)
          let code := if amax.isZero then 127 else (min (max (numLog2 amax - elemEmax f + 127) 0) 254).toNat
          val l = code * 2 ^ 24 + ((elems l).mapIdx (fun j v => f.encode (v.scale (127 - (code : Int))) * 2 ^ (8 * j))).sum)) ∧
  (∀ s x c, Meets s x c → c.active ≠ [] → blockSlotOk c x.b = true →
    let b := slotBlk (slotWord c x.b)
    let n := if b = 6 then 2 else 1
    (b = 6 → oddBase x.d = false) → Readable s c [srcA x 1] x.d n →
    ∃ t val, exec (.dqblk x) s = .next t ∧ Wrote s t c x n val (carries s c x [srcA x 1]) ∧
      ∀ l ∈ c.active, ∀ j, j < n →
        let a := (bits32 s c x.a l).toNat
        val l / 2 ^ (32 * j) % 2 ^ 32 =
          if a / 2 ^ 24 = 0xFF then (floatOf .dqblk x).canonicalNan
          else (floatOf .dqblk x).encode
            (((slotFmt c x.b).decode (a / 2 ^ (8 * j) % 2 ^ (slotFmt c x.b).width)).scale (((a / 2 ^ 24 : Nat) : Int) - 127)))

/-- R224, R225: LXCH gives each lane the element of its partner, its own where there is no such lane, and 0 with poison from a
lane that is not live. -/
def Obligations.LaneExchange : Prop :=
  ∀ s x c (mode : Fin 5), Meets s x c →
    let i : Instr := match mode.val with | 0 => .lxchIdx x | 1 => .lxchBack x | 2 => .lxchFwd x | 3 => .lxchXor x | _ => .lxchRot x
    let op : Op := match mode.val with | 0 => .lxchIdx | 1 => .lxchBack | 2 => .lxchFwd | 3 => .lxchXor | _ => .lxchRot
    let n := (effectiveTy op x).regs
    let b := fun l => (bits32 s c x.b l).toNat
    let partner := fun (l : Nat) => match mode.val with
      | 0 => b l % 32
      | 1 => if b l % 256 ≤ l then l - b l % 256 else l
      | 2 => if l + b l % 256 < 32 then l + b l % 256 else l
      | 3 => l ^^^ (b l % 32)
      | _ => (l + b l % 32) % 32
    Readable s c [srcB x 1] x.d n → (c.active ≠ [] → beyondGrant c.wave x.a n = false) →
    (∀ l ∈ c.active, c.wave.isLive (partner l) = true → (readOp s c x.a n (partner l)).full = true) →
    ∃ t, exec i s = .next t ∧
      Wrote s t c x n (fun l => if c.wave.isLive (partner l) then (readOp s c x.a n (partner l)).val else 0)
        (fun l => (if c.wave.isLive (partner l) then (readOp s c x.a n (partner l)).pz else true) || carries s c x [srcB x 1] l)

namespace Sys2Proof

/-- What the lanes of `active` make of their A together, each getting `val`: poisoned everywhere when any of them is. -/
def votes (mk : Fields → Instr) (n a : Fields → Nat) (guards : Bool) (val : Issue → (Nat → Nat) → Fields → Nat → Nat) : Prop :=
  ∀ s x c, Meets s x c → Readable s c [srcA x (a x)] x.d (n x) →
    ∃ t, exec (mk x) s = .next t ∧
      Wrote s t c x (n x) (val c (fun l => (readOp s c x.a (a x) l).val) x)
        (fun l => c.active.any (fun k => (readOp s c x.a (a x) k).pz || guards && guardPoisoned c.wave x k) || guardPoisoned c.wave x l)

/-- R226 to R228: votes and ballots over the lanes of `active`, and the lanes whose A holds the same bits. -/
def laneVotes : Prop :=
  votes .paggAny (fun _ => 1) (fun _ => 1) false (fun c a _ _ => (c.active.any (fun l => a l == 1)).toNat) ∧
  votes .paggAll (fun _ => 1) (fun _ => 1) false (fun c a _ _ => (c.active.all (fun l => a l == 1)).toNat) ∧
  votes .paggSame (fun _ => 1) (fun _ => 1) false
    (fun c a _ _ => (c.active.all (fun l => a l == 1) || c.active.all (fun l => a l == 0)).toNat) ∧
  votes .paggNone (fun _ => 1) (fun _ => 1) false (fun c a _ _ => (c.active.all (fun l => a l == 0)).toNat) ∧
  votes .ballot (fun _ => 1) (fun _ => 1) true
    (fun c a _ _ => bitsFrom 32 (fun l => decide (l ∈ c.active) && a l == 1)) ∧
  votes .eqmaskMask (fun _ => 1) (fun x => (effectiveTy .eqmaskMask x).regs) true
    (fun c a _ l => bitsFrom 32 (fun k => decide (k ∈ c.active) && a k == a l)) ∧
  votes .eqmaskLead (fun _ => 1) (fun x => (effectiveTy .eqmaskLead x).regs) true
    (fun c a _ l => (c.active.find? (fun k => a k == a l)).getD l)

/-- R229: LFOLD folds the values of the lanes of `active`; its result does not depend on their order. -/
def folds : Prop :=
  let fold := fun (mk : Fields → Instr) (op : Op) (val : Fields → Nat → List Nat → Nat) =>
    votes mk (fun x => (effectiveTy op x).regs) (fun x => (effectiveTy op x).regs) true
      (fun c a x _ => val x (32 * (effectiveTy op x).regs) (c.active.map a))
  fold .lfoldAdd .lfoldAdd (fun _ n vs => vs.sum % 2 ^ n) ∧
  fold .lfoldMin .lfoldMin (fun x n vs => match vs with
    | [] => 0
    | v :: r => r.foldl (fun m k => if isSigned .lfoldMin x then (if signed n k < signed n m then k else m) else min m k) v) ∧
  fold .lfoldMax .lfoldMax (fun x n vs => match vs with
    | [] => 0
    | v :: r => r.foldl (fun m k => if isSigned .lfoldMax x then (if signed n m < signed n k then k else m) else max m k) v) ∧
  fold .lfoldAnd .lfoldAnd (fun _ _ vs => match vs with | [] => 0 | v :: r => r.foldl (· &&& ·) v) ∧
  fold .lfoldOr .lfoldOr (fun _ _ vs => vs.foldl (· ||| ·) 0) ∧
  fold .lfoldXor .lfoldXor (fun _ _ vs => vs.foldl (· ^^^ ·) 0) ∧
  fold .lfoldCnt .lfoldCnt (fun _ _ vs => (vs.filter (· ≠ 0)).length)

end Sys2Proof

/-- R226 to R229: what the lanes of `active` make of their values together. The model's part: That PAGG poisons a lane also by
the lane's own guard is the model's reading (log 22). -/
def Obligations.VotesAndFolds : Prop := laneVotes ∧ folds

/-! ### Control -/

namespace Sys2Proof

/-- The target of lane `l`: the instruction's offset plus a signed displacement, and plus a signed register for the indexed forms
(R170, R208, R209). -/
def transferTo (s : State) (c : Issue) (disp : Operand) (reg : Option Operand) (l : Nat) : Int :=
  (c.pc : Int) + (bits32 s c disp l).toInt + (match reg with | some o => (bits32 s c o l).toInt | none => 0)

/-- Every lane of `active` goes to an instruction of the code, and any other lane of the group has one to go on at. -/
def goodTransfer (c : Issue) (to_ : Nat → Int) : Prop :=
  (∀ l ∈ c.active, 0 ≤ to_ l ∧ to_ l % 12 = 0 ∧ to_ l < c.codeSize) ∧ (c.pc + 12 < c.codeSize ∨ ∀ l ∈ c.group, l ∈ c.active)

/-- Lanes of `active` at their targets, the others behind the instruction. -/
def landing (c : Issue) (to_ : Nat → Int) : Nat → Nat := fun l => if l ∈ c.active then (to_ l).toNat else c.pc + 12

/-- R207 to R209: a branch moves the counters of the lanes of `active` to their targets and does nothing else. -/
def branches : Prop :=
  (∀ s x c, s.issue? x = some c → GuardSound c x → goodTransfer c (transferTo s c x.a none) →
    ∃ t, exec (.bra x) s = .next t ∧ Past s t c x (landing c (transferTo s c x.a none)) c.wave) ∧
  (∀ s x c, s.issue? x = some c → Readable s c [srcA x 1] .zero 1 → Sound s c [srcA x 1] → GuardSound c x →
    goodTransfer c (transferTo s c x.b (some x.a)) →
    ∃ t, exec (.brx x) s = .next t ∧ Past s t c x (landing c (transferTo s c x.b (some x.a))) c.wave)

/-- R35, R36, R208, R209: a call pushes the address behind it on the return stack of each lane of `active`, then branches. Where no
stack is full that is all; where a stack's sixteen hardware entries are full they leave as one more spilled frame, and the new entry
stands alone: `s'` is the state once the full stacks' frames have been written. -/
def calls : Prop :=
  ∀ s x c (indexed : Bool), s.issue? x = some c →
    let i : Instr := if indexed then .callx x else .call x
    let srcs := if indexed then [srcA x 1] else []
    let to_ := if indexed then transferTo s c x.b (some x.a) else transferTo s c x.a none
    let link : Word × Bool := (BitVec.ofNat 32 (c.pc + 12), false)
    Readable s c srcs .zero 1 → Sound s c srcs → GuardSound c x → goodTransfer c to_ →
    ((∀ l ∈ c.active, (c.wave.lane l).stack.length < 16) →
      ∃ t, exec i s = .next t ∧
        Past s t c x (landing c to_) (c.wave.mapLanes c.active.contains (fun _ y => { y with stack := link :: y.stack }))) ∧
    (∀ s', (∀ l ∈ c.active, 16 ≤ (c.wave.lane l).stack.length → (c.wave.lane l).spilled < 64) →
      (c.active.filter (fun l => decide (16 ≤ (c.wave.lane l).stack.length))).foldlM (fun t l =>
        spillFrame t c l (c.wave.lane l).spilled ((c.wave.lane l).stack.map Prod.fst).reverse) s = .ok s' →
      (∃ t, exec i s = .next t ∧
        Past s' t c x (landing c to_) (c.wave.mapLanes c.active.contains (fun _ y =>
          if 16 ≤ y.stack.length then { y with stack := [link], spilled := y.spilled + 1 } else { y with stack := link :: y.stack }))) ∧
      { s' with dirty := s.dirty, fresh := s.fresh, tlb := s.tlb, l1Bad := s.l1Bad, module := s.module } = s ∧
      { s'.module with walked := s.module.walked } = s.module)

/-- R36, R210, R211: RET pops each lane's return stack, filled again from its newest frame when the hardware part is empty, into its
counter; EXIT makes the lanes of `active` exited, and a wave without a live lane withdraws its deferred grants. -/
def returnsAndExits : Prop :=
  (∀ s x c (link : Nat → Word) (rest : Nat → List (Word × Bool)), s.issue? x = some c → GuardSound c x →
    (∀ l ∈ c.active, filledStack s c l = .ok ((link l, false) :: rest l)) → goodTransfer c (fun l => ((link l).toNat : Int)) →
    ∃ t, exec (.ret x) s = .next t ∧
      Past { s with tlb := t.tlb, module := { s.module with walked := t.module.walked, errors := t.module.errors }, events := t.events } t c x
        (landing c (fun l => ((link l).toNat : Int)))
        (c.wave.mapLanes c.active.contains (fun l y =>
          { y with stack := rest l, spilled := if y.stack = [] then y.spilled - 1 else y.spilled })) ∧
      (s.bad = [] → s.lost = [] → s.l1Bad = [] → t.module.errors = s.module.errors ∧ t.events = s.events)) ∧
  (∀ s x c, s.issue? x = some c → GuardSound c x → (c.pc + 12 < c.codeSize ∨ ∀ l ∈ c.group, l ∈ c.active) →
    let own := c.wave.mapLanes c.active.contains
      (fun _ y => { y with state := .exited, held := false, stack := [], spilled := 0 })
    ∃ t, exec (.exit x) s = .next t ∧
      Past (if own.liveLanes = [] then s.withdraw c.block.cluster (· == c.wave.uid) else s) t c x (onward c) own)

end Sys2Proof

/-- R35, R36, R207 to R211: branches, calls, returns and exits. -/
def Obligations.ControlTransfers : Prop := branches ∧ calls ∧ returnsAndExits

/-- R212 to R214: YIELD lets the other waves of the slice go first, each once and for at most 64 of its cycles, BPT stops the
wave for an attached debugger and tells it, and TRAP takes the precise trap USER_TRAP. -/
def Obligations.YieldTrapAndBreakpoint : Prop :=
  (∀ s x c, Meets s x c →
    let mates := (s.waves.filter (fun w => w.uid != c.wave.uid && w.slice == c.wave.slice && w.headPc.isSome
      && (s.block? w.block).any (fun b => b.cluster == c.block.cluster))).map Wave.uid
    ∃ t, exec (.yield x) s = .next t ∧
      Past s t c x (onward c) { c.wave with yielded := if c.active = [] ∨ mates = [] then c.wave.yielded else some { mates := mates, left := 64 } }) ∧
  (∀ s x c, Meets s x c →
    (c.part.debugger = false ∨ c.active = [] → ∃ t, exec (.bpt x) s = .next t ∧ Past s t c x (onward c) c.wave) ∧
    (c.part.debugger = true → c.active ≠ [] → ∃ t, exec (.bpt x) s = .next t ∧
      Past (s.tell (.debug c.wave.uid c.pc (bits32 s c x.a 0))) t c x (onward c) { c.wave with stopped := true })) ∧
  (∀ s x c, s.issue? x = some c → c.active ≠ [] → Readable s c [srcA x 1] .zero 1 → Sound s c [srcA x 1] →
    c.wave.handler = false → c.part.xlate.hsize ≠ 0 →
    ∃ t w, exec (.trap x) s = .next t ∧ { t with waves := s.waves } = s ∧
      (∀ u, u ≠ c.wave.uid → t.wave? u = s.wave? u) ∧ t.wave? c.wave.uid = some w ∧ w.handler = true ∧
      w.trap = { c.wave.trap with tcause := 0x19, tdetail := bits32 s c x.a 0, toff := BitVec.ofNat 32 c.pc, tlanes := maskOf c.active,
                                  taddr := 0, rpc := BitVec.ofNat 32 (c.pc + 12) } ∧
      (∀ l ∈ c.group, (w.lane l).pc = 0) ∧ (∀ l, l ∉ c.group → c.wave.isLive l = true → (w.lane l).frozen = true) ∧
      { w with lanes := c.wave.lanes, trap := c.wave.trap, handler := false, wait := c.wave.wait } = c.wave)

/-! ### Accesses as they issue -/

/-- R91, R234 to R238: a load empties its destination and a store captures its bytes; each leaves one operation under way,
counted in its class, with one access per lane at the place its address translates to. PREF changes nothing. The model's part:
Which of two translations a stale page uses is free (log 8). -/
def Obligations.LoadsAndStores : Prop :=
  (∀ s x c place,
    let t := effectiveTy .ld x
    let n := tySize t
    let srcs := [srcA x (addrRegs x.space), srcB x 1]
    let lanes := accessLanes c [x.d, x.a, x.b]
    let addr := effAddr s c x.space x.a x.b
    let ranges := allRangeBits c.wave x.space n (lanes.map addr)
    let op := { newOp s c x .load (some 0) n (lanes.map (fun l => Access.at_ l (place l))) ranges with
      dst := x.d, signed := t == .s8 || t == .s16 }
    Meets s x c → c.active ≠ [] → Readable s c srcs x.d t.regs → Sound s c srcs → GuardSound c x →
    Mapped s c x.space n true false lanes addr place →
    Unheld s c 0 ranges (sectorsAt x.space n (lanes.map place)) →
    ∃ u own, exec (.ld x) s = .next u ∧ Emptied c x.d t.regs c.wave own ∧
      Past { Translated s u with fresh := s.fresh + 1 } u c x (onward c) (own.starts op)) ∧
  (∀ s x c place,
    let t := effectiveTy .st x
    let n := tySize t
    let srcs := [srcD x (addrRegs x.space), srcA x t.regs, srcB x 1]
    let lanes := accessLanes c [x.d, x.a, x.b]
    let addr := effAddr s c x.space x.d x.b
    let ranges := allRangeBits c.wave x.space n (lanes.map addr)
    let left := lanes.map (fun l => { Access.at_ l (place l) with data := natToBytes n (readOp s c x.a t.regs l).val })
    Meets s x c → c.active ≠ [] → Readable s c srcs .zero 1 → Sound s c srcs → GuardSound c x →
    Mapped s c x.space n false true lanes addr place →
    Unheld s c 1 ranges (sectorsAt x.space n (lanes.map place)) →
    ∃ u, exec (.st x) s = .next u ∧
      Past { Translated s u with fresh := s.fresh + 1 } u c x (onward c)
        (c.wave.starts (newOp s c x .store (some 1) n left ranges))) ∧
  (∀ s x c, Meets s x c → Readable s c [srcA x 2, srcB x 1] .zero 1 → Sound s c [srcA x 2, srcB x 1] → GuardSound c x →
    ∃ u, exec (.pref x) s = .next u ∧ Past s u c x (onward c) c.wave)

/-- R126, R242, R244: a weight-store load reads its lane's share of the store, a CPL copies from its source to its destination;
each is one operation under way, counted in its class. The model's part: Where a share stands in its die is the model's (log
41). -/
def Obligations.WeightLoadsAndCopies : Prop :=
  (∀ s x c,
    let t := effectiveTy .ldw x
    let n := tySize t
    let srcs := [srcA x 1, srcB x 1]
    let lanes := accessLanes c [x.d, x.a, x.b]
    let addr := fun l => (bits32 s c x.a l).toNat * 4096 + (bits32 s c x.b l).toNat
    let op := { newOp s c x .loadWs (some 0) n (lanes.map (fun l => Access.at_ l (addr l, 0, 0))) (BitVec.twoPow 9 8) with dst := x.d }
    Meets s x c → c.active ≠ [] → Readable s c srcs x.d t.regs → Sound s c srcs → GuardSound c x →
    (∀ l ∈ lanes, (bits32 s c x.a l).toNat < 2 ^ 20 ∧ addr l % n = 0 ∧ addr l + n ≤ c.part.wsBytes) →
    Unheld s c 0 (BitVec.twoPow 9 8) [] →
    ∃ u own, exec (.ldw x) s = .next u ∧ Emptied c x.d t.regs c.wave own ∧
      Past { s with fresh := s.fresh + 1 } u c x (onward c) (own.starts op)) ∧
  (∀ s x c place from_,
    let n := tySize (effectiveTy .cpl x)
    let ss := optSpace x
    let srcs := [srcD x (addrRegs x.space), srcA x (addrRegs ss)]
    let lanes := accessLanes c [x.d, x.a]
    let addr := effAddr s c x.space x.d .zero
    let start := effAddr s c ss x.a .zero
    let ranges := if x.space = .g ∨ ss = .g then
        (if x.space = .g then allRangeBits c.wave .g n (lanes.map addr) else 0)
          ||| (if ss = .g then allRangeBits c.wave .g n (lanes.map start) else 0)
      else BitVec.twoPow 9 8
    let left := lanes.map (fun l => { Access.at_ l (place l) with src := (from_ l).1, sown := (from_ l).2.2 })
    Meets s x c → c.active ≠ [] → Readable s c srcs .zero 1 → Sound s c srcs → GuardSound c x →
    Mapped s c x.space n false true lanes addr place → Mapped s c ss n true false lanes start from_ →
    Unheld s c 2 ranges (lanes.flatMap (fun l => spots x.space (place l).2.2 (place l).1 n ++ spots ss (from_ l).2.2 (from_ l).1 n)) →
    ∃ u, exec (.cpl x) s = .next u ∧
      Past { Translated s u with fresh := s.fresh + 1 } u c x (onward c)
        (c.wave.starts { newOp s c x .copy (some 2) n left ranges with sspace := ss }))

namespace Sys2Proof

/-- R246: PTEST delivers the poison of its operand, one S result of lanes whose predicate tags differ being left open (log 4); PCLR
copies the operand without its poison. Neither result is poisoned. -/
def poisonInstructions : Prop :=
  (∀ s x c, Meets s x c → Readable s c [srcA x 1] x.d 1 →
    let tag := fun l => (readOp s c x.a 1 l).pz
    ((∃ n, x.d = .s n) → (∃ q, x.a = .p q) → ∀ l ∈ c.active, ∀ k ∈ c.active, tag l = tag k) →
    ∃ t, exec (.ptest x) s = .next t ∧ Wrote s t c x 1 (fun l => (tag l).toNat) (fun _ => false)) ∧
  (∀ s x c n q, Meets s x c → Readable s c [srcA x 1] x.d 1 → x.d = .s n → x.a = .p q → c.active ≠ [] →
    ∃ t, ∃ bit : Bool, exec (.ptest x) s = .next t ∧
      Wrote { s with draws := t.draws } t c x 1 (fun _ => bit.toNat) (fun _ => false)) ∧
  (∀ s x c,
    let n := (effectiveTy .pclr x).regs
    Meets s x c → Readable s c [srcA x n] x.d n →
    ∃ t, exec (.pclr x) s = .next t ∧ Wrote s t c x n (fun l => (readOp s c x.a n l).val) (fun _ => false))

end Sys2Proof

/-- R199, R200, R204, R246: moves, and the instructions that read and clear poison. The model's part: What PTEST delivers where
the tags of its lanes differ is a free value (log 4), and what PCLR copies between predicates and registers is the model's
reading (log 66). -/
def Obligations.MovesAndPoison : Prop := moves ∧ poisonInstructions

namespace Sys2Proof

/-- ATOM, CAS and RED by the operation code of R247; the first seven and CAS reply. -/
def atomicForms : List ((Fields → Instr) × Op × Nat × Bool) :=
  [(.atomAdd, .atomAdd, 0, true), (.atomMin, .atomMin, 1, true), (.atomMax, .atomMax, 2, true), (.atomAnd, .atomAnd, 3, true),
   (.atomOr, .atomOr, 4, true), (.atomXor, .atomXor, 5, true), (.atomExch, .atomExch, 6, true), (.cas, .cas, 7, true),
   (.redAdd, .redAdd, 0, false), (.redMin, .redMin, 1, false), (.redMax, .redMax, 2, false), (.redAnd, .redAnd, 3, false),
   (.redOr, .redOr, 4, false), (.redXor, .redXor, 5, false)]

end Sys2Proof

/-- R241, R247, R248: an atomic sends its accesses to their homes, one request for each home, and is one operation under way;
ATOM and CAS empty their destination. A release first writes the core's dirty sectors back (`s'` is the state after that). The
model's part: That a release writes every dirty sector of the core back, and that an acquire has others written back, is the
model's reading (log 14), and so is the order of the new requests behind those that wait, lane by lane (log 67). -/
def Obligations.Atomics : Prop :=
  ∀ f ∈ atomicForms, ∀ s x c place,
    let t := effectiveTy f.2.1 x
    let n := tySize t
    let reply := f.2.2.2
    let d := if reply then x.d else .zero
    let sa := if reply then srcA x 2 else srcD x 2
    let sb := if reply then srcB x t.regs else srcA x t.regs
    let sc := if f.2.1 = .cas then srcC x t.regs else noSrc x t.regs
    let srcs := [sa, sb, sc]
    let lanes := accessLanes c [d, sa.op, sb.op, sc.op]
    let addr := fun l => (readOp s c sa.op 2 l).val
    let cls := if reply then 3 else 4
    let ranges := allRangeBits c.wave .g n (lanes.map addr)
    let left := lanes.map (fun l => { Access.at_ l (place l) with
      b := BitVec.ofNat 64 (readOp s c sb.op t.regs l).val, c := BitVec.ofNat 64 (readOp s c sc.op t.regs l).val })
    let releases := x.order = .rel ∨ x.order = .ar
    let s' := if releases then released s c x.scope else s
    let op := { newOp s' c x (if reply then .atomic else .reduce) (some cls) n left ranges with
      dst := d, alu := f.2.2.1, signed := t == Ty.s32 || t == Ty.s64, space := .g }
    Meets s x c → c.active ≠ [] → Readable s c srcs d t.regs → Sound s c srcs → GuardSound c x →
    Mapped s c .g n reply true lanes addr place → Unheld s c cls ranges [] → behindWrites c.wave (sectorsAt .g n (lanes.map place)) = false →
    (releases → unperformed c.wave (maskOf c.active) c.wave.nextOp = false ∧ CanRelease s c x.scope) →
    ∃ u own v new, exec (f.1 x) s = .next u ∧ Emptied c d t.regs c.wave own ∧
      Past v u c x (onward c) (own.starts { op with seq := u.fresh - 1 }) ∧
      { v with clean := s'.clean, tlb := s'.tlb, module := s'.module, draws := s'.draws, fresh := s'.fresh, requests := s'.requests } = s' ∧
      { v.module with walked := s'.module.walked } = s'.module ∧
      v.requests = s'.requests ++ new ∧ (∀ a ∈ left, ∃ r ∈ new, a ∈ r.accesses) ∧
      ∀ r ∈ new, r.wave = c.wave.uid ∧ r.op = c.wave.nextOp ∧ r.core = c.core ∧ r.alu = f.2.2.1 ∧ r.size = n ∧ r.reply = reply ∧
        r.performed = false ∧ ∀ a ∈ r.accesses, a ∈ left ∧ homeOf c.part a.addr = r.home

/-! ### Order -/

namespace Sys2Proof

/-- `t` differs from `s` at most in what write-backs of the dirty sectors that `p` names leave: every byte reads as before or as one of
those sectors has it. -/
structure WroteBack (s t : State) (p : Dirty → Prop) : Prop where
  rest : { t with mem := s.mem, bad := s.bad, dirty := s.dirty, clean := s.clean, homeMarks := s.homeMarks, clusters := s.clusters,
                  l1Bad := s.l1Bad, lost := s.lost, module := s.module, events := s.events } = s
  counts : { t.module with errors := s.module.errors, moved := s.module.moved } = s.module
  bytes : ∀ a, t.byte a = s.byte a ∨ ∃ d ∈ s.dirty, p d ∧ a / 32 = d.sector ∧ d.mask.getLsbD (a % 32) = true ∧
    t.byte a = sectorByte d.data (a % 32)
  kept : ∀ d ∈ t.dirty, d ∈ s.dirty
  copies : ∀ k ∈ t.clean, k ∈ s.clean

/-- A dirty sector can be written back: its core's tile runs, its home has power, and no byte that the write-back needs has an error that
cannot be corrected (R125, R397). -/
def writable (s : State) (c : Issue) (d : Dirty) : Prop :=
  s.l1Up d.core = true ∧ s.homeUp c.part (32 * d.sector) = true ∧ s.backBad d = false

/-- A sector of another core that the releases `marks` cover: what an acquire at `.sd` or wider has written back first (R142). -/
def promoted (c : Issue) (scope : Scope) (marks : List (Nat × ReleaseMark)) (d : Dirty) : Prop :=
  scope.wideSd = true ∧ d.core ≠ c.core ∧ ∃ m ∈ marks, State.coveredBy m d = true

/-- R143, R252, R253: a fence waits until the counts of its mask are zero; as a release it has the core's dirty sectors inside the mask at
their homes and marks the lanes; as an acquire it makes the wave's earlier loads inside the mask acquire, those that a WAITCNT has awaited
before among them: what the releases that they met cover is written back, and at `.cl` or wider the core's clean copies inside the mask
go. -/
def fences : Prop :=
  ∀ s x c,
    let rs := maskRanges c.wave x.a
    let rel := x.order == .rel || x.order == .ar
    let acq := x.order == .acq || x.order == .ar
    let mine := fun (d : Dirty) => (rel && x.scope.wideCl) = true ∧ d.core = c.core ∧ insideMask rs d.va = true
    let others := fun (d : Dirty) => acq = true ∧ promoted c x.scope
      ((c.wave.seen.filter (fun e => e.lanes != 0 && insideMask rs e.va)).flatMap Seen.marks) d
    Meets s x c → c.active ≠ [] → GuardSound c x → countsZero s c.wave (maskBits x.a) = true →
    (∀ d ∈ s.dirty, mine d ∨ others d → writable s c d) →
    ∃ u s', exec (.fence x) s = .next u ∧
      Past s' u c x (onward c)
        (if rel then c.wave.addMark { lanes := maskOf c.active, after := c.wave.nextOp, inside := rs, only := none, scope := x.scope }
         else c.wave) ∧
      WroteBack s s' (fun d => mine d ∨ others d) ∧ (∀ d ∈ s'.dirty, ¬ mine d ∧ ¬ others d) ∧
      (acq && x.scope.wideCl → ∀ k ∈ s'.clean, ¬(k.core = c.core ∧ insideMask rs k.va = true)) ∧
      (rel = false → acq = false → s' = s)

/-- R88, R92, R144, R257: RANGE rewrites one range register once that register's count is zero; WAITCNT passes once its class counts no more
than A. It has then awaited all operations of the class but the newest A: of those, the writes that stand in the L1 become releases of their
sectors for the wave's later stores, and the reads that none has awaited before act as acquires, each at its own scope. -/
def rangesAndWaits : Prop :=
  (∀ s x c n, Meets s x c → c.active ≠ [] → x.d = .g n → Readable s c [srcA x 2, srcB x 2] .zero 1 → Sound s c [srcA x 2, srcB x 2] →
    GuardSound c x → (rangeCount s c.wave n.val = 0 → ∃ u, exec (.range x) s = .next u ∧
      Past s u c x (onward c) { c.wave with g := c.wave.g.set n.val { base := bits64 s c x.a 0, limit := bits64 s c x.b 0 } }) ∧
    (rangeCount s c.wave n.val ≠ 0 → exec (.range x) s = .next s)) ∧
  (∀ (cls : Fin 6) s x c,
    let n := (bits32 s c x.a 0).toNat
    let awaited := fun (k rank : Nat) => k == cls.val && decide (rank + n < c.wave.issued.getD cls.val 0)
    let fresh := fun (e : Seen) => ! e.waited && awaited e.cls e.rank
    let reads := c.wave.seen.filter fresh
    let writes := c.wave.wrote.filter (fun e => awaited e.cls e.rank)
    let others := fun (d : Dirty) => ∃ e ∈ reads, promoted c e.scope e.marks d
    Meets s x c → c.active ≠ [] → GuardSound c x → c.wave.counter cls.val ≤ n →
    ¬(cls.val = 2 ∧ c.wave.copyError = true) → (∀ d ∈ s.dirty, others d → writable s c d) →
    ∃ u s' own, exec (.waitcnt cls x) s = .next u ∧ Past s' u c x (onward c) own ∧
      { own with marks := c.wave.marks, seen := c.wave.seen, wrote := c.wave.wrote } = c.wave ∧
      (∀ e, e ∈ own.seen ↔ (e ∈ c.wave.seen ∧ fresh e = false) ∨ ∃ k ∈ reads, e = { k with waited := true, rank := 0 }) ∧
      own.wrote = c.wave.wrote.filter (fun e => ! awaited e.cls e.rank) ∧
      (∀ m ∈ c.wave.marks, m ∈ own.marks) ∧
      (∀ e ∈ writes, ∃ m ∈ own.marks, m.lanes = BitVec.allOnes 32 ∧ m.after ≤ c.wave.nextOp ∧ m.inside = none ∧ m.scope = e.scope ∧
        m.only = some ((writes.filter (fun k => k.scope == e.scope)).map Unawaited.sector)) ∧
      WroteBack s s' others ∧ (∀ d ∈ s'.dirty, ¬ others d) ∧
      ((∃ e ∈ reads, e.scope.wideCl = true) → ∀ k ∈ s'.clean, k.core ≠ c.core) ∧ (reads = [] → s' = s)) ∧
  (∀ (cls : Fin 6) s x c, Meets s x c → c.active ≠ [] → GuardSound c x → (bits32 s c x.a 0).toNat < c.wave.counter cls.val →
    exec (.waitcnt cls x) s = .next s)

end Sys2Proof

/-- R88, R92, R143, R144, R252, R253, R257: fences, range registers and counter waits. The model's part: Which sectors an
acquire and a release have written back is the model's reading (log 14), and so is that a poisoned guard or bound raises
POISON_USE (log 22). -/
def Obligations.Fences : Prop := fences ∧ rangesAndWaits

/-- R254 to R256, R388: a persist fence has the sectors that it covers at their homes and closes the cluster's image with the
wave behind the fence; the closed epoch is the block's newest persist point. The model's part: That every covered dirty sector
of the core goes home, those that other waves wrote too, is the model's reading (log 14). -/
def Obligations.PersistFences : Prop :=
  ∀ s x c (mod_ : Bool),
    let covered := fun (d : Dirty) => d.core = c.core ∧
      (if mod_ then persistentSector d.sector else insideMask (maskRanges c.wave x.a) d.va) = true
    let i : Instr := if mod_ then .pfenceMod x else .pfenceTile x
    let cl := c.block.cluster
    let copies := s.copies.filter (fun k => k.wave == c.wave.uid && k.kind == .store && ! k.left.isEmpty)
    Meets s x c → c.active ≠ [] → GuardSound c x →
    (if mod_ then c.wave.pend.any (fun p => isGlobal p.space && ! p.isLoad && p.left.any (fun a => persistentSector (a.addr / 32)))
        || copies.any (copyPersists s c.part c.die)
      else writesPending s c.wave (maskBits x.a)) = false →
    (∀ d ∈ s.dirty, covered d → writable s c d) →
    ∃ u v, exec i s = .next u ∧ Past v { u with blocks := s.blocks, clusters := v.clusters } c x (onward c) c.wave ∧
      WroteBack s v covered ∧ (∀ d ∈ u.dirty, ¬ covered d) ∧
      (u.block? c.block.uid).map Block.persisted = some ((s.cluster cl).epoch + 1) ∧
      (u.cluster cl).epoch = (s.cluster cl).epoch + 1 ∧
      (∃ im, ((u.cluster cl).imageA = some im ∨ (u.cluster cl).imageB = some im) ∧ im.complete = true ∧
        im.epoch = (s.cluster cl).epoch + 1 ∧ im.waves = u.clusterWaves cl)

/-! ### Barriers and gates -/

namespace Sys2Proof

/-- A barrier beside WB0 that the block may name: the kernel declares it, and the block is no task block (R42, R293). -/
def declared (c : Issue) (key : Nat) : Prop := key ≠ 0 ∧ c.block.task = false ∧ c.grid.count key ≠ 0

end Sys2Proof

/-- R267, R287 to R292: an arrival counts one towards COUNT and joins the running phase; at COUNT the phase flips and ARR and
STAT start again. BARA delivers the phase joined, BARS passes at once when its arrival completes the phase and else waits, BARW
passes when the phase it waits for is over, BARQ reads LAST and PH. On WB0 BARS passes with its wave, every lane of which
carries the operations of all from then on (R138). `s'` is the state after the release of R288. The model's part: The
write-backs of an arrival's release are the model's reading (log 14), and so is that an empty active checks no membership (log
21). -/
def Obligations.Barriers : Prop :=
  (∀ s x c,
    let key := barKey x.a
    let s' := released s c (barScope key)
    let b := barrierOf c.grid c.block key
    let joined := fun (w : Wave) => { w with arrivals := (key, b.ph) :: w.arrivals.filter (fun e => e.1 != key) }
    let after : Barrier := if b.arr + 1 = c.grid.count key
      then { arr := 0, ph := b.ph + 1, stat := 0, last := mergeStat b.stat 0 }
      else { b with arr := (b.arr + 1) % 4096, stat := mergeStat b.stat 0 }
    Meets s x c → c.active ≠ [] → Whole c → declared c key → isQuiet c.wave = true → CanRelease s c (barScope key) →
    (Readable s c [] x.d 1 →
      ∃ u own, exec (.bara x) s = .next u ∧ Holds c x.d 1 (fun _ => b.ph.toNat) (fun _ => c.guardPz x) (joined c.wave) own ∧
        Past (s'.setBarrier c.grid c.block key after) u c x (onward c) own) ∧
    ((∀ k t, c.wave.wait ≠ some (.barrier k t)) → b.arr + 1 = c.grid.count key →
      ∃ u v, exec (.bars x) s = .next u ∧ Past v u c x (onward c) (joined c.wave) ∧
        v = (if 2 ≤ key / 16 then (s'.setBarrier c.grid c.block key after).discard c.core else s'.setBarrier c.grid c.block key after)) ∧
    ((∀ k t, c.wave.wait ≠ some (.barrier k t)) → b.arr + 1 ≠ c.grid.count key →
      exec (.bars x) s = .next ((s'.setBarrier c.grid c.block key after).own c
        (fun w => { joined w with wait := some (.barrier key b.ph) })))) ∧
  (∀ s x c, Meets s x c → Whole c → barKey x.a = 0 →
    ∃ u, exec (.bars x) s = .next u ∧ Past s u c x (onward c)
      (if c.active = [] then c.wave else { c.wave with pend := c.wave.pend.map (fun p => { p with carried := BitVec.allOnes 32 }) })) ∧
  (∀ s x c k t,
    let key := barKey x.a
    let b := barrierOf c.grid c.block key
    let v := if 2 ≤ key / 16 then s.discard c.core else s
    Meets s x c → c.active ≠ [] → declared c key → 1 ≤ (b.ph - t).toNat → (b.ph - t).toNat ≤ 2 ^ 31 → c.wave.wait = some (.barrier k t) →
    (Whole c → ∃ u, exec (.bars x) s = .next u ∧ Past v u c x (onward c) c.wave) ∧
    (x.opt.getLsbD 0 = false → Readable s c [srcB x 1] .zero 1 → Sound s c [srcB x 1] →
      ∃ u, exec (.barw x) s = .next u ∧ Past v u c x (onward c) c.wave)) ∧
  (∀ s x c,
    let key := barKey x.a
    let b := barrierOf c.grid c.block key
    Meets s x c → c.active ≠ [] → declared c key →
    (∀ t, Readable s c [srcB x 1] .zero 1 → Sound s c [srcB x 1] →
      (x.opt.getLsbD 0 = true ∧ t = bits32 s c x.b 0 ∨
        x.opt.getLsbD 0 = false ∧ (∀ k v, c.wave.wait ≠ some (.barrier k v)) ∧
          (c.wave.arrivals.find? (fun e => e.1 == key)).map Prod.snd = some t) →
      1 ≤ (b.ph - t).toNat → (b.ph - t).toNat ≤ 2 ^ 31 →
      ∃ u, exec (.barw x) s = .next u ∧ Past (if 2 ≤ key / 16 then s.discard c.core else s) u c x (onward c) c.wave) ∧
    (Readable s c [] x.d 2 →
      ∃ u, exec (.barq x) s = .next u ∧ Wrote s u c x 2 (fun _ => b.last.toNat + 2 ^ 32 * b.ph.toNat) (fun _ => c.guardPz x)))

/-- R45 to R47, R294: GATE passes once the wait gate's generation is open, as an acquire; OPEN counts its block once, and the
generation opens with the grid's last block. `s'` is the state after OPEN's release. The model's part: The write-backs of OPEN's
release are the model's reading (log 14), and so is that a task block's OPEN is not counted (log 57). -/
def Obligations.Gates : Prop :=
  (∀ s x c, Meets s x c → c.active ≠ [] → c.grid.wgate = none ∨ gateIsOpen c.part c.grid = true →
    ∃ u, exec (.gate x) s = .next u ∧ Past (s.discard c.core) u c x (onward c) c.wave) ∧
  (∀ s x c, s.issue? x = some c → c.active ≠ [] → gateIsOpen c.part c.grid = false → exec (.gate x) s = .next s) ∧
  (∀ s x c, Meets s x c → c.grid.ogate = none ∨ c.block.opened = true →
    ∃ u, exec (.openGate x) s = .next u ∧ Past s u c x (onward c) c.wave) ∧
  (∀ s x c r,
    let s' := released s c .gd
    Meets s x c → c.active ≠ [] → c.grid.ogate = some r → c.block.opened = false → isQuiet c.wave = true → CanRelease s c .gd →
    ∃ u v, exec (.openGate x) s = .next u ∧ Past v u c x (onward c) c.wave ∧
      { v with blocks := s'.blocks, grids := s'.grids, parts := s'.parts } = s' ∧
      (v.block? c.block.uid).map Block.opened = some true ∧
      (c.block.task = true → v.grids = s'.grids ∧ v.parts = s'.parts) ∧
      (c.block.task = false →
        (v.grid? c.grid.id).map Grid.opened =
          some (if c.grid.opened.contains c.block.lin then c.grid.opened else c.block.lin :: c.grid.opened) ∧
        (c.grid.blockCount ≤ (if c.grid.opened.contains c.block.lin then c.grid.opened else c.block.lin :: c.grid.opened).length →
          ∀ p, v.part? c.grid.part = some p → ∀ g ∈ p.gates, g.opener = c.grid.id → g.isOpen = true)))

/-! ### Copies and tags -/

namespace Sys2Proof

/-- R93, R275 to R277: CPT hands the engine a copy of the tile that its layout record describes; the tag starts with the bits of the tile's
chunks clear and all others set. -/
def tensorCopies : Prop :=
  ∀ s x c,
    let tag := tagRank s c x.d
    let r := readRecord s c x.a
    let store := x.opt.getLsbD 0
    let ranges := spanRanges c.wave (recBase r) (recSpan r)
    let copy : Copy := { id := s.fresh, kind := if store then .store else .load, part := c.part.id, block := c.block.uid, wave := c.wave.uid,
                         tag := tag, record := r, space := x.space, scope := x.scope, left := List.range (ceilDiv (recTotal r) 512), pieces := [],
                         ranges := ranges, common := 0, rows := 0, stride := 0, rtag := 0, receivers := [], slot := 0, index := 0,
                         seq := s.fresh }
    Meets s x c → c.active ≠ [] → Readable s c [srcA x 8] .zero 1 → Sound s c [srcA x 8] → GuardSound c x →
    tag < c.block.alloc.tag → recFault r = none → recDoff r % 128 = 0 → inGrant s c x.space (recDoff r) (recTotal r) = true →
    s.tagPending c.block.uid tag = false → accessHeld c.wave = false → checkSpan s c (recBase r) (recSpan r) store = .ok () →
    (∀ i, i < 9 → ranges.getLsbD i = true → rangeCount s c.wave i < 63) →
    ∃ u, exec (.cpt x) s = .next u ∧
      Past { s.ownBlock c (fun b => b.setTag tag { map := BitVec.allOnes 64 <<< ceilDiv (recTotal r) 512, failed := none }) with
        fresh := s.fresh + 1, copies := s.copies ++ [copy], tlb := u.tlb, module := { s.module with walked := u.module.walked } }
        u c x (onward c) c.wave

/-- R279, R280: CPM hands the engine one copy with a slice for each receiver; its own tag waits for one chunk bit, and each receiver's RTAG
that no earlier copy still uses starts over the bytes delivered. -/
def multicastCopies : Prop :=
  ∀ s x c,
    let srcs := [srcA x 8, srcB x 2, srcC x 1, srcD x 1]
    let tag := tagRank s c x.d
    let r := readRecord s c x.a
    let m := cpmOf s c x
    let ranges := spanRanges c.wave (recBase r) (recSpan r)
    Meets s x c → c.active ≠ [] → Readable s c srcs .zero 1 → Sound s c srcs → GuardSound c x →
    tag < c.block.alloc.tag → cpmFault r m = none → recDoff r % 128 = 0 →
    (∀ i, i < m.count → ∃ b, receiverOf s c m i = some b ∧ recDoff r + i * m.stride + m.bytes r ≤ b.alloc.spm * Config.spmBytes) →
    s.tagPending c.block.uid tag = false → accessHeld c.wave = false → checkSpan s c (recBase r) (recSpan r) false = .ok () →
    (∀ i, i < 9 → ranges.getLsbD i = true → rangeCount s c.wave i < 63) →
    ∃ u v k, exec (.cpm x) s = .next u ∧ Past v u c x (onward c) c.wave ∧
      { v with blocks := s.blocks, fresh := s.fresh, copies := s.copies, tlb := s.tlb, module := s.module } = s ∧
      { v.module with walked := s.module.walked } = s.module ∧ v.copies = s.copies ++ [k] ∧
      k.kind = .multi ∧ k.tag = tag ∧ k.block = c.block.uid ∧ k.wave = c.wave.uid ∧ k.record = r ∧ k.rtag = m.rtag ∧ k.left = [0] ∧
      k.common = m.common ∧ k.rows = m.rows r ∧ k.stride = m.stride ∧ k.ranges = ranges ∧
      k.receivers.map Receiver.block = (List.range m.count).filterMap (fun i => (receiverOf s c m i).map Block.uid) ∧
      (∀ q ∈ k.receivers, q.left = List.range (ceilDiv (m.bytes r) 512) ∧ q.started = ! s.tagPending q.block m.rtag) ∧
      ∀ b ∈ v.blocks, ∃ o ∈ s.blocks, b.uid = o.uid ∧ { b with tags := o.tags, writes := o.writes } = o

end Sys2Proof

/-- R93, R275 to R277, R279, R280: what CPT and CPM hand to the copy engine. -/
def Obligations.TensorCopies : Prop := tensorCopies ∧ multicastCopies

/-- R93, R278, R281 to R284: waits for tags pass once enough of them are ready and none of those has failed, TFIND delivers the
lowest ready tag, or 64, TCHK looks at chunk bits, and TFREE clears a tag that no copy still uses. -/
def Obligations.Tags : Prop :=
  (∀ s x c (all : Bool),
    let ts := (List.range 64).filter (fun n => (bits64 s c x.a 0).getLsbD n)
    let ready := ts.filter (fun n => (c.block.tag n).map == BitVec.allOnes 64)
    Meets s x c → c.active ≠ [] → Readable s c [srcA x 2] .zero 1 → Sound s c [srcA x 2] → (∀ n ∈ ts, n < c.block.alloc.tag) →
    (∀ n ∈ ready, (c.block.tag n).failed = none) → (if all then ready = ts else ts ≠ [] → ready ≠ []) →
    ∃ u, exec (if all then .twaitAll x else .twaitAny x) s = .next u ∧ Past s u c x (onward c) c.wave) ∧
  (∀ s x c,
    let ready := fun n => (bits64 s c x.a 0).getLsbD n && decide (n < c.block.alloc.tag) && (c.block.tag n).map == BitVec.allOnes 64
    let n := ((List.range 64).find? ready).getD 64
    Meets s x c → c.active ≠ [] → Readable s c [srcA x 2] x.d 1 → Sound s c [srcA x 2] → (n < 64 → (c.block.tag n).failed = none) →
    ∃ u, exec (.tfind x) s = .next u ∧ Wrote s u c x 1 (fun _ => n) (fun _ => c.guardPz x)) ∧
  (∀ s x c,
    let n := tagRank s c x.a
    let set := (c.block.tag n).map &&& bits64 s c x.b 0 == bits64 s c x.b 0
    Meets s x c → c.active ≠ [] → Sound s c [srcB x 2] → n < c.block.alloc.tag → (c.block.tag n).failed = none →
    (Readable s c [srcB x 2] x.d 1 →
      ∃ u, exec (.tchkTest x) s = .next u ∧ Wrote s u c x 1 (fun _ => set.toNat) (fun _ => c.guardPz x)) ∧
    (Readable s c [srcB x 2] .zero 1 → set = true → ∃ u, exec (.tchkWait x) s = .next u ∧ Past s u c x (onward c) c.wave) ∧
    (Readable s c [srcB x 2] .zero 1 → set = false → exec (.tchkWait x) s = .next s)) ∧
  (∀ s x c,
    let n := tagRank s c x.a
    Meets s x c → c.active ≠ [] → n < c.block.alloc.tag → s.tagPending c.block.uid n = false →
    ∃ u, exec (.tfree x) s = .next u ∧
      Past (s.ownBlock c (fun b => b.setTag n { map := 0, failed := none })) u c x (onward c) c.wave)

/-! ### The matrix engine and the accumulators -/

/-- R264 to R266, R270: MXA captures its parameter block, waits with it for what step 7 names, and starts the operation: its
context is busy with status 0, its slots are busy with E, its fragment registers locked; MXQ reads a context's status and
progress. The model's part: That MXA waits for the wave's pending scratchpad writes is the model's reading (log 26), and so is
what a wait at step 7 does with the captured block (log 73). -/
def Obligations.MatrixOperations : Prop :=
  (∀ s x c,
    let off := (bits32 s c x.a 0).toNat
    let op := { newOp s c x .matrix (some 5) 0 [] 0 with dst := x.d }
    Meets s x c → c.active ≠ [] → Readable s c [srcA x 1] .zero 1 → Sound s c [srcA x 1] → GuardSound c x →
    ∀ pb, c.wave.wait = some (.matrix pb) ∨ (∀ q, c.wave.wait ≠ some (.matrix q)) ∧ pb = readBlock s c off ∧
      off % 64 = 0 ∧ off + 64 ≤ c.block.alloc.spm * Config.spmBytes ∧ spWritesPending c.wave = false ∧
      (∀ i, i < 16 → s.sramIsBad c.block.uid false (off + 4 * i) = false) →
    checkBlock s c pb = .ok () →
    (mxWaits c pb = true → exec (.mxa x) s = .next (s.own c (fun w => { w with wait := some (.matrix pb) }))) ∧
    (mxWaits c pb = false → ∃ u v b, exec (.mxa x) s = .next u ∧ { v with blocks := s.blocks, fresh := s.fresh } = s ∧ v.fresh = s.fresh + 1 ∧
      Past v u c x (onward c) ({ c.wave with locks := c.wave.locks ++ mxLocks c.grid pb }.starts op) ∧
      v.block? c.block.uid = some b ∧ { b with accs := c.block.accs, ctxs := c.block.ctxs, writes := c.block.writes } = c.block ∧
      (b.ctx (pbCtx pb)).status = 0 ∧ (b.ctx (pbCtx pb)).progress = pb.getD 14 0 ||| BitVec.twoPow 32 26 ∧
      (∃ o, (b.ctx (pbCtx pb)).op = some o ∧ o.pb = pb ∧ o.wave = c.wave.uid ∧ o.pend = c.wave.nextOp) ∧
      (∀ n, n ≠ pbCtx pb → b.ctx n = c.block.ctx n) ∧
      ∀ n, b.acc n = if n ∈ pbSlots pb then { c.block.acc n with e := pbE pb, busy := true } else c.block.acc n)) ∧
  (∀ s x c,
    let k := c.block.ctx (bits32 s c x.a 0).toNat
    Meets s x c → c.active ≠ [] → Readable s c [srcA x 1] x.d 2 → Sound s c [srcA x 1] → (bits32 s c x.a 0).toNat < c.block.alloc.mxe →
    ∃ u, exec (.mxq x) s = .next u ∧
      Wrote s u c x 2 (fun _ => k.status.toNat + 2 ^ 32 * k.progress.toNat) (fun _ => c.guardPz x))

namespace Sys2Proof

/-- R115, R116, R271, R272: ACLR clears a slot to zero under a new exponent; ACVT delivers an element converted, or K itself. -/
def accumulatorReads : Prop :=
  (∀ s x c,
    let n := (bits32 s c x.a 0).toNat
    let srcs := [srcA x 1, srcB x 1]
    Meets s x c → c.active ≠ [] → Readable s c srcs .zero 1 → Sound s c srcs → n < c.block.alloc.acc →
    ((c.block.acc n).busy = true → exec (.aclr x) s = .next s) ∧
    ((c.block.acc n).busy = false → ∃ u, exec (.aclr x) s = .next u ∧
      Past (s.ownBlock c (fun b => b.setAcc n { e := (bits32 s c x.b 0).setWidth 8, elems := [], busy := false })) u c x (onward c) c.wave)) ∧
  (∀ s x c,
    let n := (bits32 s c x.a 0).toNat
    let t := effectiveTy .acvt x
    let srcs := [srcA x 1, srcB x 1]
    let index := fun l => (bits32 s c x.b l).toNat
    let place := fun l => if x.opt.getLsbD 0 then 32 * l + index l else 32 * index l + l
    let elem := fun l => Sparse.get AccElem.start (c.block.acc n).elems (place l)
    let value := fun l => if (elem l).taint then Machine.Num.nan
      else .fin (decide ((elem l).k.toInt < 0)) (elem l).k.toInt.natAbs ((c.block.acc n).e.toInt - 64)
    Meets s x c → c.active ≠ [] → Readable s c srcs x.d t.regs → Sound s c srcs → n < c.block.alloc.acc →
    (∀ l ∈ c.active, index l < 32) → (c.block.acc n).busy = false →
    ∃ u, exec (.acvt x) s = .next u ∧
      Wrote s u c x t.regs
        (fun l => if t = .a128 then (elem l).k.toNat else placeResult t ((fmtOf t).encode (value l)))
        (fun l => (if t = .a128 then (elem l).taint else value l == .nan && ! (fmtOf t).hasNan) || guardPoisoned c.wave x l))

/-- R273, R274: ACST writes a whole tile to memory, ACLD reads one into a slot. -/
def accumulatorTiles : Prop :=
  (∀ s x c p,
    let t := effectiveTy .acst x
    let spc := optSpace x
    let n := tileBytes t
    let srcs := [srcA x 1, srcD x (addrRegs spc)]
    let a := c.block.acc (bits32 s c x.a 0).toNat
    Meets s x c → c.active ≠ [] → Readable s c srcs .zero 1 → Sound s c srcs → GuardSound c x →
    (bits32 s c x.a 0).toNat < c.block.alloc.acc → locateTile s c spc (readOp s c x.d (addrRegs spc) 0).val n false true = .ok p →
    a.busy = false → tileWaits c spc n p = false → (∀ q ∈ p.phys, s.homeUp c.part q = true) → tileTainted a t = false →
    (∀ i, i < 9 → (allRangeBits c.wave spc n [p.off]).getLsbD i = true → rangeCount s c.wave i < 63) →
    ∃ u v, exec (.acst x) s = .next u ∧ Past v u c x (onward c) c.wave ∧
      { v with blocks := s.blocks, sramBad := s.sramBad, dirty := s.dirty, l1Bad := s.l1Bad, fresh := s.fresh, draws := s.draws,
               tlb := s.tlb, module := s.module } = s ∧
      { v.module with walked := s.module.walked } = s.module ∧
      (spc = .sp ∨ spc = .csp → v.dirty = s.dirty ∧ ((s.block? p.owner).isSome →
        ∀ i, i < (tileData a t).length → v.spByte (spc == .csp) p.owner (p.off + i) = (tileData a t).getD i 0)) ∧
      (spc = .g → v.blocks = s.blocks ∧ ∀ q ∈ p.phys, (v.dirtyOf c.core (q / 32)).isSome)) ∧
  (∀ s x c p,
    let t := effectiveTy .acld x
    let spc := optSpace x
    let n := tileBytes t
    let srcs := [srcA x 1, srcB x (addrRegs spc), srcC x 1]
    let slot := (bits32 s c x.a 0).toNat
    let e := (bits32 s c x.c 0).setWidth 8
    Meets s x c → c.active ≠ [] → Readable s c srcs .zero 1 → Sound s c srcs → GuardSound c x →
    slot < c.block.alloc.acc → locateTile s c spc (readOp s c x.b (addrRegs spc) 0).val n true false = .ok p →
    (c.block.acc slot).busy = false → tileWaits c spc n p = false → (∀ a ∈ p.phys, s.homeUp c.part a = true) →
    (∀ i, i < 9 → (allRangeBits c.wave spc n [p.off]).getLsbD i = true → rangeCount s c.wave i < 63) →
    ∃ u v b, exec (.acld x) s = .next u ∧ Past v u c x (onward c) c.wave ∧
      { v with blocks := s.blocks, module := s.module, events := s.events, tlb := s.tlb, draws := s.draws } = s ∧
      { v.module with walked := s.module.walked, errors := s.module.errors } = s.module ∧
      v.block? c.block.uid = some b ∧ { b with accs := c.block.accs, writes := c.block.writes } = c.block ∧
      (∀ k, k ≠ slot → b.acc k = c.block.acc k) ∧
      (b.acc slot).e = e ∧ (b.acc slot).busy = false ∧
      ∀ i, i < 1024 → Sparse.get .start (b.acc slot).elems i = tileElem t e.toInt (tileByte s c spc p) i)

end Sys2Proof

/-- R115, R116, R271 to R274: accumulator slots cleared, read element by element, stored and loaded. The model's part: The code
that stands for a poisoned zero in DSW formats is the model's reading (log 53). -/
def Obligations.Accumulators : Prop := accumulatorReads ∧ accumulatorTiles

/-! ### Claims, channels, tasks, time -/

namespace Sys2Proof

/-- R59 to R64, R295: an ACQ submits one request and stays until the checker answers it; a grant delivers its handle and passes, and a
deferred ACQ passes with an empty handle. -/
def acquires : Prop :=
  ∀ s x c (kind : Fin 6) (waits : Bool),
    let i : Instr := if waits then .acqW kind x else .acq kind x
    let q := (bits32 s c x.a 0).toNat
    let cl := c.block.cluster
    let taken := fun (h : Word) => ∃ t, exec i s = .next t ∧ Wrote s t c x 1 (fun _ => h.toNat) (fun _ => c.guardPz x)
    Meets s x c → c.active ≠ [] → (x.d = .zero ∨ ∃ n, x.d = .s n) → Readable s c [srcA x 1] .zero 1 → Sound s c [srcA x 1] →
    (∀ h, c.wave.wait = some (.granted h) → taken h) ∧
    (∀ h n, c.wave.wait = some (.deferred h) → x.d = .s n →
      ∃ t own, exec i s = .next t ∧ Past s t c x (onward c) own ∧ own.readS n = { val := h, full := false, pz := c.guardPz x } ∧
        (∀ r, r ≠ n.val → own.readS r = c.wave.readS r) ∧ { own with s := c.wave.s } = c.wave) ∧
    ((match c.wave.wait with | some (.granted _) | some (.deferred _) | some .exceeded | some .grant | some .fifoFull => False | _ => True) →
      s.deferredOf cl c.wave.uid = none → destBusy c x.d 1 = false →
      ((s.cluster cl).gck.queue.length < 16 →
        let r : GrantRequest := { wave := c.wave.uid, kind := kind, q := q, dst := if waits then .zero else x.d, waits := waits,
                                  pz := c.guardPz x, entry := 0x3F, passed := 0 }
        exec i s = .next ((s.onGck cl (fun g => { g with queue := g.queue ++ [r] })).own c (fun w => { w with wait := some .grant }))))

/-- R55, R62, R65, R68, R296, R297: FREE returns its units from the highest rank down at once and has the deferred requests scanned, once more
where a scan is due already; CLMQ delivers claim, allocation, need and what is available. -/
def freesAndQueries : Prop :=
  (∀ s x c (kind : Fin 6),
    let q := (bits32 s c x.a 0).toNat
    let alloc := allocOf c.wave c.block kind
    let cl := c.block.cluster
    Meets s x c → c.active ≠ [] → Readable s c [srcA x 1] .zero 1 → Sound s c [srcA x 1] → q ≤ alloc → freeBusy s c kind q = false →
    ∃ t v, exec (.free kind x) s = .next t ∧
      Past v t c x (onward c) (if kind = 0 then { c.wave with regAlloc := alloc - q } else c.wave) ∧
      { v with blocks := s.blocks, clusters := s.clusters } = s ∧
      v.block? c.block.uid = some (if kind = 0 then c.block else { c.block with alloc := c.block.alloc.put kind (alloc - q) }) ∧
      (∀ u, u ≠ c.block.uid → v.block? u = s.block? u) ∧ (∀ k, k ≠ cl → v.cluster k = s.cluster k) ∧
      { v.cluster cl with gck := (s.cluster cl).gck } = s.cluster cl ∧
      { (v.cluster cl).gck with limit := (s.cluster cl).gck.limit, scan := (s.cluster cl).gck.scan, again := (s.cluster cl).gck.again }
        = (s.cluster cl).gck ∧
      (v.cluster cl).gck.limit.of kind ≤ (s.cluster cl).gck.limit.of kind ∧
      (∀ k, k < 6 → k ≠ kind.val → (v.cluster cl).gck.limit.of k = (s.cluster cl).gck.limit.of k) ∧
      (if q = 0 then v = s else (v.cluster cl).gck.scan = true ∧ (v.cluster cl).gck.again = (s.cluster cl).gck.scan)) ∧
  (∀ s x c (kind : Fin 6),
    let claim := claimOf c.wave c.block kind
    let alloc := allocOf c.wave c.block kind
    Meets s x c → Readable s c [] x.d 4 →
    ∃ t, exec (.clmq kind x) s = .next t ∧
      Wrote s t c x 4 (fun _ => claim + 2 ^ 32 * alloc + 2 ^ 64 * (claim - alloc) + 2 ^ 96 * availableOf s c kind)
        (fun _ => c.guardPz x))

end Sys2Proof

/-- R55, R59 to R65, R68, R295 to R297: ACQ, FREE and CLMQ. The model's part: When registers count as in use is the model's
reading (log 49). -/
def Obligations.Claims : Prop := acquires ∧ freesAndQueries

/-- R89, R90, R299 to R302: CHSEND puts a message into its pipe and uses one unit of allowance, CHRECV leaves one operation
under way that no counter counts, CHPOLL delivers its slot's state, CHCLOSE closes the pipe. `s'` is the state after CHSEND's
release. The model's part: The write-backs of CHSEND's release are the model's reading (log 14), and so is that CHCLOSE at the
receive end leaves the messages that an operation under way has claimed (log 79). -/
def Obligations.Channels : Prop :=
  ∀ s x c,
    let s' := released s c .gd
    let n := slotIndex s c x.a
    let e := c.block.c.getD n 0
    let k := channelOf c.part c.block.lin e
    let waiting := ((s.wavesOf c.block.uid).flatMap (fun w => w.pend.filter (fun p => p.receives (slotEndp e)))).length
    Meets s x c → c.active ≠ [] → GuardSound c x → Sound s c [srcA x 1] → n ≤ 15 → e.getLsbD 31 = true →
    (Readable s c [srcA x 1, srcB x 1] x.d 1 → Sound s c [srcB x 1] → slotPerm e = 1 → slotAllow e ≠ 0 → slotClosed e = false →
      accessHeld c.wave = false → isQuiet c.wave = true → CanRelease s c .gd →
      ∃ t, exec (.chsend x) s = .next t ∧
        Past ((s'.ownBlock c (fun b => { b with c := b.c.set n (e - 1) })).onPart c.part.id
          (fun p => p.setChannel { k with msgs := k.msgs ++ [bits32 s c x.b 0] })) t c x (onward c) c.wave) ∧
    (Readable s c [srcA x 1] x.d 2 → slotPerm e = 2 → accessHeld c.wave = false →
      ∃ t own, exec (.chrecv x) s = .next t ∧ Emptied c x.d 2 c.wave own ∧
        Past { s with fresh := s.fresh + 1 } t c x (onward c)
          (own.starts { newOp s c x .receive none 8 [Access.at_ 0 (slotEndp e, 0, 0)] 0 with dst := x.d })) ∧
    (Readable s c [srcA x 1] x.d 1 →
      (let count := if slotPerm e = 1 then slotAllow e else if slotPerm e = 2 then k.msgs.length - waiting else 0
      ∃ t, exec (.chpoll x) s = .next t ∧
        Wrote s t c x 1 (fun _ => (slotClosed e).toNat * 2 ^ 31 + slotPerm e * 2 ^ 29 + count % 2 ^ 16) (fun _ => false)) ∧
      (slotClosed e = true → ∃ t, exec (.chclose x) s = .next t ∧ Past s t c x (onward c) c.wave) ∧
      (slotClosed e = false → c.block.task = false →
        ∃ t v b p, exec (.chclose x) s = .next t ∧ Past v t c x (onward c) c.wave ∧
          { v with blocks := s.blocks, parts := s.parts, clusters := s.clusters } = s ∧
          (∀ i, { v.cluster i with imageA := (s.cluster i).imageA, imageB := (s.cluster i).imageB } = s.cluster i) ∧ v.block? c.block.uid = some b ∧ b.c.getD n 0 = e ||| BitVec.twoPow 32 28 ∧ { b with c := c.block.c } = c.block ∧
          v.part? c.part.id = some p ∧
          p.channel c.block.lin (slotEndp e) = some { k with closed := true, msgs := if slotPerm e = 2 then k.msgs.take waiting else k.msgs }))

/-- R304, R305: TSPAWN puts one record for each lane of `active`, or one for the group, into the task queue and the arena and
delivers the task identifiers. The model's part: That the arena's places are not reused, and how the records of one TSPAWN wait
for room, are the model's readings (logs 23 and 29). -/
def Obligations.TaskSpawn : Prop :=
  ∀ s x c (at_ : Nat → Nat),
    let lanes := if isVReg x.a then c.active else c.active.take 1
    let first := fun l => (readOp s c x.a 16 l).val % 2 ^ 32
    let index := fun l => if isVReg x.a then (c.active.takeWhile (· != l)).length else 0
    Meets s x c → c.active ≠ [] → GuardSound c x → Readable s c [srcA x 16] x.d 1 → Sound s c [srcA x 16] →
    (∀ l ∈ lanes, first l % 12 = 0 ∧ first l < c.grid.codesz) → c.wave.spawned = 0 → c.part.tasks.length + lanes.length ≤ 8192 →
    (∀ i, i < lanes.length → arenaPhys s c i = .ok (at_ i) ∧ at_ i % 64 = 0 ∧
      ∀ d ∈ s.dirty, d.sector = at_ i / 32 ∨ d.sector = at_ i / 32 + 1 → s.backBad d = false) →
    ∃ t v own, exec (.tspawn x) s = .next t ∧ Past v t c x (onward c) own ∧
      Holds c x.d 1 (fun l => (c.grid.nextTask + BitVec.ofNat 32 (index l)).toNat) (fun _ => false) c.wave own ∧
      { v with mem := s.mem, bad := s.bad, dirty := s.dirty, clean := s.clean, homeMarks := s.homeMarks, clusters := s.clusters,
               l1Bad := s.l1Bad, lost := s.lost, module := s.module, events := s.events, grids := s.grids, parts := s.parts, tlb := s.tlb,
               draws := s.draws } = s ∧
      { v.module with errors := s.module.errors, moved := s.module.moved, walked := s.module.walked } = s.module ∧
      (v.part? c.part.id).map Part.tasks = some (c.part.tasks ++ lanes.mapIdx (fun i l =>
        { grid := c.grid.id, id := c.grid.nextTask + BitVec.ofNat 32 i, entry := first l,
          addr := BitVec.ofNat 64 (c.part.arena + 64 * (c.part.arenaNext + i)), since := s.module.time })) ∧
      (v.grid? c.grid.id).map Grid.nextTask = some (c.grid.nextTask + BitVec.ofNat 32 lanes.length) ∧
      ((∀ i j, i < j → j < lanes.length → at_ i ≠ at_ j) →
        ∀ i l, lanes[i]? = some l → ∀ k, k < 64 → v.byte (at_ i + k) = BitVec.ofNat 8 ((readOp s c x.a 16 l).val / 2 ^ (8 * k)))

/-- R307, R309: WDQ sends one query to its dispenser, its tag waiting for one chunk bit; TIME delivers the time once it has
come, and holds its wave until then. The model's part: That time moves only by ticks is the model's (log 5). -/
def Obligations.DispenserAndTime : Prop :=
  (∀ s x c,
    let srcs := [srcA x 1, srcB x 1, srcC x 1]
    let dsp := (bits32 s c x.a 0).toNat
    let tag := (bits32 s c x.b 0).toNat
    let off := (bits32 s c x.c 0).toNat
    let query : Copy := { id := s.fresh, kind := .query, part := c.part.id, block := c.block.uid, wave := c.wave.uid, tag := tag,
                          record := [], space := .sp, scope := .bk, left := [0], pieces := [], ranges := 0, common := 0, rows := 0, stride := 0,
                          rtag := 0, receivers := [], slot := dsp, index := bits32 s c x.c 0, seq := s.fresh }
    Meets s x c → c.active ≠ [] → GuardSound c x → Readable s c srcs .zero 1 → Sound s c srcs →
    dsp < 16 → (c.part.dispenser dsp).grid = some c.grid.id → tag < c.block.alloc.tag →
    off + 4 ≤ c.block.alloc.spm * Config.spmBytes → off % 4 = 0 → s.tagPending c.block.uid tag = false →
    ∃ t, exec (.wdq x) s = .next t ∧
      Past { s.ownBlock c (fun b => b.setTag tag { map := BitVec.allOnes 64 <<< 1, failed := none }) with
        fresh := s.fresh + 1, copies := s.copies ++ [query] } t c x (onward c) c.wave) ∧
  (∀ s x c,
    let until_ := (bits64 s c x.a 0).toNat
    Meets s x c → c.active ≠ [] → Readable s c [srcA x 2] x.d 2 → Sound s c [srcA x 2] →
    (until_ ≤ s.timeOf c.part →
      ∃ t, exec (.time x) s = .next t ∧ Wrote s t c x 2 (fun _ => s.timeOf c.part) (guardPoisoned c.wave x)) ∧
    (s.timeOf c.part < until_ →
      exec (.time x) s = .next (s.own c (fun w => { w with wait := some (.deadline (bits64 s c x.a 0) x) }))))

/-- R38 to R40, R230: REORD holds its wave whole. Once every wave of the block with a live lane is held there, one regroup sorts
their threads by key, ties in their old order, and fills the waves again from the lowest on: a thread takes its lane, its
predicates and the registers of its window with it; registers outside the window read 0, full and poisoned, and lanes left over
are absent. A wave that is left with no thread and has nothing under way counts as retired. The model's part: That poison in the
window operand raises nothing is the model's reading (log 22), and so is what becomes of an operation under way whose wave loses
its lanes (log 78). -/
def Obligations.Regrouping : Prop :=
  (∀ s x c, s.issue? x = some c → Whole c → beyondGrant c.wave x.a 1 = false → Readable s c [srcB x 1] .zero 1 →
    exec (.reord x) s = .next (s.own c (fun w => { w with wait := some (.regroup x) }))) ∧
  (∀ s b hs,
    let waves := s.wavesOf b.uid
    let old := hs.flatMap (fun h => h.issue.group.map (threadOf s h))
    s.block? b.uid = some b → (waves.filter (fun w => w.liveLanes != [])).map s.heldAt = hs.map some → hs ≠ [] →
    regroupFault s waves hs = none →
    (∀ h ∈ hs, settled s b.cluster h = true ∧ keysFull s h = true ∧ h.issue.pc + 12 < h.issue.codeSize) →
    ∃ t, ∃ ts : List Thread, exec (.reordRegroup b.uid) s = .next t ∧ { t with waves := s.waves } = s ∧ t.waves.length = s.waves.length ∧
      ts.Pairwise (fun a b => a.key ≤ b.key) ∧ (∀ k, ts.filter (fun a => a.key == k) = old.filter (fun a => a.key == k)) ∧
      ∀ (i : Nat) (w : Wave), s.waves[i]? = some w → ∃ v : Wave, t.waves[i]? = some v ∧ (w.block ≠ b.uid → v = w) ∧
        (w.block = b.uid → v.wait = none ∧
          { v with lanes := w.lanes, v := w.v, p := w.p, written := w.written, pend := w.pend, marks := w.marks, seen := w.seen,
                   wait := w.wait, stall := w.stall, retired := w.retired } = w ∧
          (w.liveLanes ≠ [] → 32 * w.waveId < ts.length → v.pend = w.pend ∧ v.retired = false) ∧
          (ts.length ≤ 32 * w.waveId → w.pend = [] → w.copyError = false → v.retired = true) ∧
          ∀ l, l < 32 → match ts[32 * w.waveId + l]? with
            | none => v.lane l = .absent
            | some a => v.lane l = a.lane ∧ (∀ n, n < 7 → v.readP n l = a.preds.getD n .start) ∧
                ∀ r, r < 8 * w.regAlloc → v.readV r l = Sparse.get { val := 0, full := true, pz := true } a.regs r))

/-! ### The handler level -/

namespace Sys2Proof

/-- The group has taken a precise fault (R378, R379): the trap record is written, the wave runs its handler, the group stands at its first
instruction and every other live lane is frozen; nothing else has changed. -/
def Entered (s t : State) (c : Issue) (code : Nat) (detail : Word) (addr : DWord) (rpc : Nat) : Prop :=
  ∃ w, { t with waves := s.waves } = s ∧ (∀ u, u ≠ c.wave.uid → t.wave? u = s.wave? u) ∧ t.wave? c.wave.uid = some w ∧
    w.handler = true ∧ w.wait = none ∧
    w.trap = { c.wave.trap with tcause := BitVec.ofNat 32 code, tdetail := detail, toff := BitVec.ofNat 32 c.pc, tlanes := maskOf c.active,
                                taddr := addr, rpc := BitVec.ofNat 32 rpc } ∧
    (∀ l, w.lane l = if l ∈ c.group then { c.wave.lane l with pc := 0, held := false }
                     else if c.wave.isLive l then { c.wave.lane l with frozen := true } else c.wave.lane l) ∧
    { w with lanes := c.wave.lanes, trap := c.wave.trap, handler := c.wave.handler, wait := c.wave.wait } = c.wave

/-- The grid is gone (R380): its blocks and their waves with it, its queue faulted at its packet, the record with the control core, or
waiting for the home of its ring entry to have power (R125). -/
def Killed (s t : State) (c : Issue) (cause : Nat) (detail : Word) (lanes : BitVec 32) (addr : DWord) (word10 : Word) : Prop :=
  t.grid? c.grid.id = none ∧ (∀ b ∈ t.blocks, b.grid ≠ c.grid.id) ∧
  (∀ w ∈ t.waves, ∀ b ∈ s.blocks, b.grid = c.grid.id → w.block ≠ b.uid) ∧
  (∃ p, t.part? c.part.id = some p ∧ (p.queue c.grid.queue).flag = .faulted ∧ (p.queue c.grid.queue).reason = 0x80 ∧
    (p.queue c.grid.queue).faddr = BitVec.ofNat 64 (packetAddr (c.part.queue c.grid.queue) c.grid.index) ∧
    p.xlate.fridx = c.part.xlate.fridx + 1 ∧ ∀ g ∈ p.gates, g.opener = c.grid.id → g.isOpen = true) ∧
  let record := [BitVec.ofNat 32 cause, detail, BitVec.ofNat 32 c.pc, lanes] ++ wordsOf 2 addr.toNat ++ wordsOf 2 c.grid.krec ++
    [BitVec.ofNat 32 c.block.lin, BitVec.ofNat 32 (relCluster c.part c.block.cluster * 256 + c.wave.waveId), word10] ++
    wordsOf 2 (s.timeOf c.part) ++ [c.grid.index, BitVec.ofNat 32 c.grid.queue, 0]
  (∃ failed : Bool, CcEvent.kill record failed ∈ t.events) ∨
    ∃ p, t.part? c.part.id = some p ∧ (c.part.xlate.frbase.toNat + 64 * (c.part.xlate.fridx.toNat % 16), record) ∈ p.kills

/-- R381 to R383, R386: at handler level MOVCR and MOVRC read and write the trap record registers, ERET takes the group to RPC at user level and thaws
the others, and HALT kills the grid. -/
def handlerInstructions : Prop :=
  (∀ s x c,
    let n := (bits32 s c x.a 0).toNat
    let r := c.wave.trap
    let regs := [r.tcause, r.tdetail, r.toff, r.tlanes, r.taddr.extractLsb' 0 32, r.taddr.extractLsb' 32 32, r.rpc, 0,
                 r.hscr0, r.hscr1, r.hscr2, r.hscr3]
    Meets s x c → c.active ≠ [] → c.wave.handler = true → Sound s c [srcA x 1] → n < 12 → n ≠ 7 →
    (Readable s c [srcA x 1] x.d 1 →
      ∃ t, exec (.movcr x) s = .next t ∧ Wrote s t c x 1 (fun _ => (regs.getD n 0).toNat) (fun _ => c.guardPz x)) ∧
    (Readable s c [srcA x 1, srcB x 1] .zero 1 → Sound s c [srcB x 1] →
      let v := bits32 s c x.b 0
      ∃ t, exec (.movrc x) s = .next t ∧
        Past s t c x (onward c) { c.wave with trap :=
          if n = 6 then { r with rpc := v } else if n = 8 then { r with hscr0 := v } else if n = 9 then { r with hscr1 := v }
          else if n = 10 then { r with hscr2 := v } else if n = 11 then { r with hscr3 := v } else r })) ∧
  (∀ s x c,
    let rpc := c.wave.trap.rpc.toNat
    s.issue? x = some c → c.active ≠ [] → c.wave.handler = true → Whole c → rpc % 12 = 0 → rpc < c.grid.codesz →
    ∃ t w, exec (.eret x) s = .next t ∧ OnlyIssuer s t c ∧ t.wave? c.wave.uid = some w ∧ w.handler = false ∧ w.wait = none ∧
      w.stall = x.stall.toNat ∧
      (∀ l, w.lane l = if l ∈ c.group then { c.wave.lane l with pc := rpc, held := false, frozen := false }
                       else { c.wave.lane l with frozen := false }) ∧
      { w with lanes := c.wave.lanes, handler := c.wave.handler, wait := c.wave.wait, stall := c.wave.stall } = c.wave) ∧
  (∀ s x c, s.issue? x = some c → c.active ≠ [] → c.wave.handler = true → Readable s c [srcA x 1] .zero 1 → Sound s c [srcA x 1] →
    ∃ t, exec (.halt x) s = .next t ∧ Killed s t c 0x1F (bits32 s c x.a 0) (maskOf c.active) 0 (bits32 s c x.a 0))

/-- The cached translation covers a byte of the `n` pages from that of `addr`, whatever its own page's size; any does for n = 0 (R371,
R385). -/
def invalidated (e : TlbEntry) (addr n : Nat) : Bool :=
  let size := 2 ^ e.leaf.bits
  let base := e.vpage * 2 ^ 14 / size * size
  n == 0 || (decide (base < addr + n * 2 ^ 14) && decide (addr / 2 ^ 14 * 2 ^ 14 < base + size))

/-- R384, R385: SHDW delivers a word of the cluster's shadow state; TLBI drops the partition's cached translations of its pages. -/
def shadowAndTlb : Prop :=
  (∀ s x c,
    let k := s.cluster c.block.cluster
    let sel := (bits32 s c x.a 0).toNat
    Meets s x c → c.wave.handler = true → Readable s c [] x.d 1 →
    ∃ t, exec (.shdw x) s = .next t ∧
      Wrote s t c x 1 (fun _ => (if sel = 0 then k.epoch else if sel = 1 then c.block.persisted else if sel = 2 then k.backlog
        else k.stallCount.toNat) % 2 ^ 32) (fun _ => c.guardPz x)) ∧
  (∀ s x c,
    let addr := (bits64 s c x.a 0).toNat
    let n := (bits32 s c x.b 0).toNat
    Meets s x c → c.active ≠ [] → c.wave.handler = true → Readable s c [srcA x 2, srcB x 1] .zero 1 → Sound s c [srcA x 2, srcB x 1] →
    usesPages s c.part addr n = false →
    ∃ t, exec (.tlbi x) s = .next t ∧
      Past { s with tlb := s.tlb.filter (fun e => ! (e.part == c.part.id && invalidated e addr n)) } t c x (onward c) c.wave)

end Sys2Proof

/-- R381 to R386: what the privileged instructions do at handler level. -/
def Obligations.HandlerLevel : Prop := handlerInstructions ∧ shadowAndTlb

/-! ### What returns to a wave -/

namespace Sys2Proof

/-- Operation `op` is off its range counts, and off its counter once every older one is (R91, R92). -/
def Done (w : Wave) (op : Nat) : Prop := ∀ p ∈ w.pend, p.id = op → p.left = [] ∧ p.done = true

/-- Destination D of `size` bytes has received `val` with poison `pz` in lane `l`; an exited lane's register has not (R211). -/
def received (old w : Wave) (d : Operand) (size l val : Nat) (pz : Bool) : Prop :=
  match d with
  | .v n => old.isLive l = true → ∀ i, i < (size + 3) / 4 → w.readV (n + i) l = element val pz i
  | .s n => ∀ i, i < (size + 3) / 4 → w.readS (n + i) = element val pz i
  | _ => True

/-- The bytes that accesses of the operation write, one after another, each with its address. -/
def writtenCells (f : Flying) (done : List Access) : List (Nat × Byte) :=
  done.flatMap (fun a => List.zip (accessAddrs f.pend.space a.addr f.pend.size) a.data)

/-- What stands at address `a` after the cells: the last one's byte there, and `old` where none is. -/
def lastWrite (cells : List (Nat × Byte)) (a : Nat) (old : Byte) : Byte := ((cells.reverse.find? (fun e => e.1 == a)).map Prod.snd).getD old

/-- The accesses `done` of a store or copy have written their bytes, and nothing else has (R119, R122, R236): in the scratchpads; in the
core's L1 below `.cl`; at `.cl` and wider at their homes, together with what the core held dirty in the sectors `secs`, or anywhere with
`all`. -/
structure Stored (s t : State) (f : Flying) (secs : List Nat) (done : List Access) (all : Bool) : Prop where
  narrow : f.pend.scope.wideCl = false → t.mem = s.mem ∧ ∀ a, t.viewByte f.block.coreIndex a =
    lastWrite (if f.global then writtenCells f done else []) a (s.viewByte f.block.coreIndex a)
  wide : f.pend.scope.wideCl = true →
    let cells := if f.global then writtenCells f done else []
    (∀ e ∈ cells, t.byte e.1 = lastWrite cells e.1 0) ∧
    (∀ a, (∀ e ∈ cells, e.1 ≠ a) → t.byte a = s.byte a ∨
      ∃ d ∈ s.dirty, d.core = f.block.coreIndex ∧ (all = true ∨ d.sector ∈ secs) ∧ d.sector = a / 32 ∧ d.mask.getLsbD (a % 32) = true ∧
        t.byte a = sectorByte d.data (a % 32)) ∧
    ∀ d ∈ t.dirty, d.core = f.block.coreIndex → d.sector ∉ secs ∧ all = false
  others : t.dirty.filter (fun d => d.core != f.block.coreIndex) = s.dirty.filter (fun d => d.core != f.block.coreIndex)
  pads : ∀ (csp : Bool) o a, (s.block? o).isSome → t.spByte csp o a = lastWrite
    (if f.pend.space = (if csp then Space.csp else Space.sp) then writtenCells f (done.filter (fun x => x.owner == o)) else []) a
    (s.spByte csp o a)
  blocks : t.blocks.map (fun b => { b with sp := [], csp := [], writes := [] }) =
    s.blocks.map (fun b => { b with sp := [], csp := [], writes := [] })
  rest : { t with waves := s.waves, mem := s.mem, bad := s.bad, lost := s.lost, dirty := s.dirty, clean := s.clean, l1Bad := s.l1Bad,
                  homeMarks := s.homeMarks, blocks := s.blocks, clusters := s.clusters, module := s.module, events := s.events,
                  fresh := s.fresh, sramBad := s.sramBad } = s

/-- The sectors of a wide store or copy can go home at once: the core's tile runs, their homes have power, and no byte of them has an error
that cannot be corrected (R125, R397). -/
structure CanPublish (s : State) (f : Flying) (secs : List Nat) : Prop where
  core : s.l1Up f.block.coreIndex = true
  words : s.l1Bad = []
  homes : ∀ x ∈ secs, s.homeUp f.part (32 * x) = true
  units : ∀ x ∈ secs, ∀ i, i < 32 → s.isBad (32 * x + i) = false

end Sys2Proof

/-- R91, R92, R122 to R124, R211, R237 to R240, R245: load data fill their destinations and complete the load; a store's or a
copy's bytes reach their place, and the operation completes. The model's part: Bytes of a unit that cannot be read are free (log
4), and that the load data of one sector return together is the model's reading (log 28), and so is which sectors an acquire
load has written back first (log 14). -/
def Obligations.DataReturns : Prop :=
  (∀ s u op f,
    let as_ := f.pend.left
    let core := f.block.coreIndex
    let secs := (((as_.flatMap (accessSpans f)).eraseDups).map Prod.fst).eraseDups
    let acq := f.pend.order == .acq
    let s1 := if acq && f.pend.space == .g then acquireFirst s f f.pend.scope secs else s
    let s2 := if acq && f.pend.scope.wideCl then s1.discard core else s1
    s.flying? u op = some f → f.pend.kind = .load ∨ f.pend.kind = .loadWs → as_ ≠ [] → (∀ a ∈ as_, a.lane < 32) →
    (as_.map Access.lane).Nodup → f.blocked (as_.flatMap f.spotsOf) = false →
    (∀ a ∈ as_, windowHolds s f a.addr = false ∧ homesUp s f a = true) →
    (acq && f.pend.space == .g → ∀ x ∈ secs, ∀ d ∈ s.dirty, s.acquireSet core x f.pend.scope d = true →
      s.l1Up d.core = true ∧ s.homeUp f.part (32 * d.sector) = true ∧ s.backBad d = false) →
    ∃ t w, exec (.loadDataReturn u op (BitVec.allOnes 32)) s = .next t ∧ t.wave? u = some w ∧ Done w op ∧
      (∀ a ∈ as_, (∀ n, f.pend.dst = .s n → as_ = [a]) →
        received f.wave w f.pend.dst f.pend.size a.lane (loadValue s2 f a).val (loadValue s2 f a).pz) ∧
      (∀ r l, l < 32 → (∀ n, f.pend.dst = .v n → r < n.val ∨ n.val + (f.pend.size + 3) / 4 ≤ r ∨ ∀ a ∈ as_, a.lane ≠ l) →
        w.readV r l = f.wave.readV r l) ∧
      { w with v := f.wave.v, s := f.wave.s, pend := f.wave.pend, seen := f.wave.seen, written := f.wave.written } = f.wave ∧
      (∀ e ∈ f.wave.seen, e ∈ w.seen) ∧ (∀ v, v ≠ u → t.wave? v = s.wave? v) ∧
      { t with waves := s.waves, clean := s.clean, module := s.module, events := s.events, l1Bad := s.l1Bad } =
        { s1 with clean := s.clean, module := s.module, events := s.events, l1Bad := s.l1Bad } ∧
      { t.module with errors := s1.module.errors } = s1.module) ∧
  (∀ s u op f,
    let rel := f.pend.order == .rel
    let core := f.block.coreIndex
    let secs := (f.pend.left.flatMap (accessSectors f)).eraseDups
    s.flying? u op = some f → f.pend.kind = .store → f.pend.left ≠ [] → (∀ a ∈ f.pend.left, a.data.length = f.pend.size) →
    f.blocked (f.pend.left.flatMap f.spotsOf) = false → (rel → unperformed f.wave f.pend.lanes f.pend.id = false) →
    (∀ a ∈ f.pend.left, homesUp s f a = true) → (f.pend.scope.wideCl = true → CanPublish s f secs) →
    (rel && f.pend.scope.wideCl → ∀ d ∈ s.dirty, d.core = core → s.homeUp f.part (32 * d.sector) = true ∧ s.backBad d = false) →
    ∃ t w, exec (.storeComplete u op) s = .next t ∧ t.wave? u = some w ∧ Done w op ∧
      { w with pend := f.wave.pend, wrote := f.wave.wrote } = f.wave ∧
      (∀ k, f.pend.cls = some k → f.pend.space = .g → f.pend.scope.wideCl = false →
        ∀ x ∈ secs, { cls := k, rank := f.pend.rank, scope := f.pend.scope, sector := x } ∈ w.wrote) ∧
      (∀ v, v ≠ u → t.wave? v = s.wave? v) ∧ Stored s t f secs f.pend.left rel ∧ t.events = s.events ∧
      { t.module with moved := s.module.moved } = s.module) ∧
  (∀ s u op f,
    let g : Flying := { f with pend := { f.pend with space := f.pend.sspace } }
    let srcs := f.pend.left.map (fun b => { b with addr := b.src })
    let core := f.block.coreIndex
    let ssecs := (srcs.flatMap (accessSectors g)).eraseDups
    let dsecs := (f.pend.left.flatMap (accessSectors f)).eraseDups
    let s1 := if f.pend.sspace = .g then ssecs.foldl (fun s x => s.recallFrom f.part core x) s else s
    let good := f.pend.left.filter (fun b => ! (copySource s1 f b).2)
    s.flying? u op = some f → f.pend.kind = .copy → f.pend.left ≠ [] → f.blocked f.pend.spots = false → (∀ b ∈ srcs, homesUp s g b = true) →
    (f.pend.sspace = .g → ∀ d ∈ s.dirty, d.core ≠ core → d.sector ∈ ssecs →
      s.l1Up d.core = true ∧ s.homeUp f.part (32 * d.sector) = true ∧ s.backBad d = false) →
    (∀ b ∈ f.pend.left, homesUp s f b = true) → (f.pend.scope.wideCl = true → CanPublish s f dsecs) →
    ∃ t w, exec (.cplCopyComplete u op) s = .next t ∧ t.wave? u = some w ∧ Done w op ∧
      w.copyError = (f.wave.copyError || f.pend.left.any (fun b => (copySource s1 f b).2)) ∧
      { w with pend := f.wave.pend, copyError := f.wave.copyError, wrote := f.wave.wrote } = f.wave ∧ (∀ v, v ≠ u → t.wave? v = s.wave? v) ∧
      Stored s1 t f dsecs (good.map (fun b => { b with data := (copySource s1 f b).1 })) false)

/-- R90, R145, R247 to R249, R300, R309: a home performs the first request of its queue lane by lane, each lane with the new
value of its operation's row in R247; replies fill their destinations, and the last completes its atomic; a CHRECV takes the
oldest message, or learns that the channel is closed; a TIME's sample is taken once its time has come. The model's part: Which
CHRECV of two waves takes a message is the model's reading (log 48), and so is which sectors an acquire has written back (log
14). -/
def Obligations.RepliesAndMessages : Prop :=
  (∀ s r p,
    let secs := sectorsOf (r.accesses.map Access.addr)
    let acq := r.order == .acq || r.order == .ar
    let s1 := if acq then secs.foldl (fun s x => s.acquireFlush p r.core x r.scope) s else s
    let s2 := secs.foldl (fun s x => s.recallDirty p (fun d => d.sector == x)) s1
    let done := performLanes r s2 r.accesses
    s.requests.find? (fun q => q.id == r.id) = some r → s.partOfCluster r.home = some p → r.performed = false → r.held = false →
    isFirstAtHome s r = true → (s.cluster r.home).power = true → (s.cluster r.home).svUsed < s.module.activity.sv →
    (∀ d ∈ s.dirty, d.sector ∈ secs ∨ (acq = true ∧ ∃ x ∈ secs, s.acquireSet r.core x r.scope d = true) →
      s.l1Up d.core = true ∧ s.homeUp p (32 * d.sector) = true) →
    behindLoads s r = false → r.wave ≠ orphanWave → s.answerable r = true →
    ∃ t, exec (.serviceWarpPerform r.id) s = .next t ∧ t.mem = done.1.mem ∧
      (r.reply = true → { r with performed := true, olds := done.2 } ∈ t.requests) ∧
      (r.reply = false → ∀ q ∈ t.requests, q.id ≠ r.id) ∧
      (t.cluster r.home).svUsed = (s.cluster r.home).svUsed + r.accesses.length ∧
      ∀ pre a post, r.accesses = pre ++ a :: post →
        let u := (performLanes r s2 pre).1
        let v := (performLanes r s2 (pre ++ [a])).1
        let n := 8 * r.size
        let old := BitVec.ofNat n (bytesToNat (u.loadBytes a.addr r.size))
        let b := BitVec.ofNat n a.b.toNat
        let below := if r.signed then old.sle b else old.ule b
        let new := match r.alu with
          | 0 => old + b
          | 1 => if below then old else b
          | 2 => if below then b else old
          | 3 => old &&& b
          | 4 => old ||| b
          | 5 => old ^^^ b
          | 6 => b
          | _ => if old = b then BitVec.ofNat n a.c.toNat else old
        done.2[pre.length]? = some (a.lane, old.setWidth 64, (List.range r.size).any (fun i => u.isBad (a.addr + i))) ∧
        (∀ i, i < r.size → v.byte (a.addr + i) = BitVec.ofNat 8 (new.toNat / 256 ^ i)) ∧
        ∀ y, y < a.addr ∨ a.addr + r.size ≤ y → v.byte y = u.byte y) ∧
  (∀ s u op mask f,
    let os := repliesOf s u op mask
    s.flying? u op = some f → os ≠ [] → (s.cluster f.block.cluster).power = true → (os.map Prod.fst).Nodup → (∀ o ∈ os, o.1 < 32) →
    ∃ t w, exec (.atomicReplyReturn u op mask) s = .next t ∧ t.wave? u = some w ∧
      t.requests = dropReplies s.requests u op mask ∧
      (∀ o ∈ os, (∀ n, f.pend.dst = .s n → os = [o]) → received f.wave w f.pend.dst f.pend.size o.1 o.2.1.toNat o.2.2) ∧
      ((∀ r ∈ t.requests, ¬(r.wave = u ∧ r.op = op)) → Done w op)) ∧
  (∀ s u op w b p q a rest (n : Fin 128),
    let pipe : Channel := (q.channel b.lin a.addr).getD { endp := a.addr, lin := b.lin, msgs := [], closed := false }
    s.wave? u = some w → s.block? w.block = some b → w.pend? op = some p → s.partOfCluster b.cluster = some q → s.part? q.id = some q →
    p.left = a :: rest → p.kind = .receive → p.dst = .s n → (∀ r ∈ s.receivers b.uid a.addr, p.seq ≤ r.seq) →
    (∀ m ms, pipe.msgs = m :: ms →
      ∃ t v, exec (.chrecvMessageTaken u op) s = .next t ∧ t.wave? u = some v ∧ Done v op ∧
        v.readS n = { val := m, full := true, pz := false } ∧ v.readS (n + 1) = { val := 1, full := true, pz := false } ∧
        ((t.part? q.id).bind (fun q => q.channel b.lin a.addr)).map Channel.msgs = some ms) ∧
    (pipe.msgs = [] → pipe.closed = true →
      ∃ t v, exec (.chrecvMessageTaken u op) s = .next t ∧ t.wave? u = some v ∧ Done v op ∧
        v.readS n = { val := 0, full := true, pz := false } ∧ v.readS (n + 1) = { val := 2, full := true, pz := false }) ∧
    (pipe.msgs = [] → pipe.closed = false → exec (.chrecvMessageTaken u op) s = .next s)) ∧
  (∀ s u w b p x c (at_ : DWord),
    let s1 := { s.reachTime p at_.toNat with issuing := u }
    s.wave? u = some w → w.wait = some (.deadline at_ x) → s.block? w.block = some b → s.partOfCluster b.cluster = some p →
    s.canReachTime p at_.toNat = true → Meets s1 x c → c.active ≠ [] → Readable s1 c [srcA x 2] x.d 2 → Sound s1 c [srcA x 2] → (bits64 s1 c x.a 0).toNat ≤ s1.timeOf c.part →
    ∃ t, exec (.timeDeadlineReached u) s = .next t ∧ Wrote s1 t c x 2 (fun _ => s1.timeOf c.part) (guardPoisoned c.wave x))

/-! ### Caches, homes and fault buffers -/

namespace Sys2Proof

/-- The waves that last wrote the dirty sectors that `p` names owe UNCORRECTABLE where the write-back met an error; nothing else of any wave
differs (R397). -/
def Owing (s t : State) (p : Dirty → Prop) : Prop :=
  ∀ u w, s.wave? u = some w → ∃ v, t.wave? u = some v ∧ { v with backError := w.backError } = w ∧
    (v.backError = true ↔ w.backError = true ∨ ∃ d ∈ s.dirty, p d ∧ d.wave = u ∧ s.backBad d = true)

end Sys2Proof

/-- R122, R123, R142: an eviction drops a line's clean copies and sends its dirty sectors home; a write-back merges its bytes at
the home; a promotion flush writes back what the releases on its sector cover. The model's part: That a promotion writes back
what every release on its sector covers is the model's reading (log 14). -/
def Obligations.CachesAndHomes : Prop :=
  (∀ s core line, exec (.l1Eviction core line) s = .next { s with
    dirty := s.dirty.map (fun d => if d.core = core ∧ d.sector / 4 = line then { d with sent := true } else d)
    clean := s.clean.filter (fun k => k.core != core || k.sector / 4 != line) }) ∧
  (∀ s d p, s.partOfCluster (d.core / Config.coresPerCluster) = some p → d.sent = true →
    s.l1Up d.core = true → s.homeUp p (32 * d.sector) = true → s.dirty.filter (fun e => e.core == d.core && e.sector == d.sector) = [d] →
    ∃ t, exec (.homeWriteBack d.core d.sector) s = .next t ∧ WroteBack s { t with waves := s.waves } (· = d) ∧ Owing s t (· = d) ∧
      t.dirty = s.dirty.filter (fun e => e.core != d.core || e.sector != d.sector) ∧
      ∀ i, i < 32 → d.mask.getLsbD i = true → t.byte (32 * d.sector + i) = sectorByte d.data i) ∧
  (∀ s core sector p,
    let marks := (s.marksOn outsideCore sector).filter (fun m => m.1 == core)
    let covered := fun (d : Dirty) => d.core = core ∧ (d.sector = sector ∨ ∃ m ∈ marks, State.coveredBy m d = true)
    s.partOfCluster (core / Config.coresPerCluster) = some p → marks ≠ [] →
    (∀ d ∈ s.dirty, covered d → s.l1Up core = true ∧ s.homeUp p (32 * d.sector) = true) →
    ∃ t, exec (.promotionFlush core sector) s = .next t ∧ WroteBack s { t with waves := s.waves } covered ∧ Owing s t covered ∧
      ∀ d ∈ t.dirty, ¬ covered d)

/-- R373 to R376, R385: a replay closes every entry of its page, so that the parties retry; a cancel closes one entry, and its
wave takes XLATE, its copy fails its tag, or its queue faults; the control core's TLBI drops cached translations. The model's
part: Which KIND and number an entry has is the model's reading (log 24), that a cancelled COPY or WSLOAD gives reason 10 is log
33, and that each event drops the entries and completes once nothing uses them is log 69. -/
def Obligations.FaultBuffers : Prop :=
  (∀ s die idx e, s.faultAt? die idx = some e →
    let closed := fun (f : FaultEntry) => ∃ g ∈ s.faults, g.idx.isSome ∧ g.part = e.part ∧ g.va / 2 ^ 14 = e.va / 2 ^ 14 ∧ g.party = f.party
    ∃ t, exec (.faultReplay die idx) s = .next t ∧ { t with faults := s.faults, events := s.events } = s ∧
      (∀ f ∈ t.faults, ¬ closed f) ∧ ∀ f ∈ s.faults, ¬ closed f → ∃ g ∈ t.faults, { g with idx := f.idx } = f) ∧
  (∀ s die idx e, s.faultAt? die idx = some e → ∃ t, exec (.faultCancel die idx) s = .next t ∧
    (∀ u c bs, e.party = .wave u → s.wave? u = some c.wave → ({ s with issuing := u } : State).issue? (wordGuard (wordOfBytes bs)) = some c →
      fetchBytes s c = .ok bs → fetchBytes s { c with active := c.group } = .ok bs → c.wave.handler = false → c.part.xlate.hsize ≠ 0 →
      ∃ w, t.wave? u = some w ∧ w.handler = true ∧ w.trap = { c.wave.trap with
        tcause := 0x1B, tdetail := 0, toff := BitVec.ofNat 32 c.pc, tlanes := maskOf c.active, taddr := BitVec.ofNat 64 e.va,
        rpc := BitVec.ofNat 32 c.pc }) ∧
    (∀ n k, e.party = .copy n → s.copy? n = some k → k.kind ≠ .packet → k.kind ≠ .wsload → (s.block? k.block).isSome →
      t.copy? n = none ∧ (t.block? k.block).map (fun b => b.tag k.tag) =
        some { map := BitVec.allOnes 64, failed := some (.xlate (BitVec.ofNat 64 e.va)) }) ∧
    (∀ n k q, e.party = .copy n → s.copy? n = some k → k.kind = .packet ∨ k.kind = .wsload → s.part? k.part = some q →
      t.copy? n = none ∧ ∃ q', t.part? k.part = some q' ∧ (q'.queue k.slot).flag = .faulted ∧ (q'.queue k.slot).reason = 10) ∧
    (∀ p slot q, e.party = .queue p slot → s.part? p = some q → ∃ q', t.part? p = some q' ∧ (q'.queue slot).flag = .faulted ∧
      (q'.queue slot).reason = 10 ∧ (q'.queue slot).faddr = BitVec.ofNat 64 (packetAddr (q.queue slot) (q.queue slot).head))) ∧
  (∀ s p q addr n,
    let s1 : State := { s with tlb := s.tlb.filter (fun e => ! (e.part == p && invalidated e addr n)) }
    s.part? p = some q →
    exec (.ccTlbi p addr n) s = .next (if usesPages s q addr n then s1 else s1.tell (.tlbiDone p addr n)))

/-! ### Engines -/

namespace Sys2Proof

/-- Sector `x` of chunk `c` has been written, under `key` in the copy's list. With the last of `secs` the chunk is over: its bit is set in the
tag, its number is off the copy, and with the last chunk the copy is gone; else the copy goes on (R93, R147, R277). -/
def SectorDone (s t : State) (k : Copy) (c key x : Nat) (secs : List Nat) : Prop :=
  let left := k.left.filter (· != c)
  let pieces := (key, x) :: k.pieces
  if secs.all (fun y => y == x || k.pieces.contains (key, y)) then
    (∀ b, s.block? k.block = some b → (t.block? k.block).map (fun b => (b.tag k.tag).map) =
      some ((b.tag k.tag).map ||| BitVec.twoPow 64 c)) ∧
    t.copy? k.id = if left = [] then none else some { k with left := left, pieces := pieces.filter (fun e => e.1 != c) }
  else t.copy? k.id = some { k with pieces := pieces }

end Sys2Proof

/-- R93, R147, R277, R306, R307, R337, R338: the copy engine writes one sector of a chunk whole and sets the chunk bit after its
last; a packet's sector goes to memory, its chunk to the weight store; a query's answer comes from its dispenser, then stands in
the scratchpad. The model's part: That one event writes one sector is the model's (log 28). Bytes with an uncorrectable source
are free (logs 4 and 33), the place of a weight-store share is the model's (log 41), and so is that a WSLOAD's chunk is written
in a window of its bank also (log 51). -/
def Obligations.CopyEngine : Prop :=
  (∀ s k c p b g s1 ms x,
    let csp := k.space == .csp
    let ts := chunkBytes (recTotal k.record) c
    let spot := copyTile s k b g
    let secs := sectorsFrom (spot.2 + 512 * c) ts.length
    s.copy? k.id = some k → k.kind = .load → s.part? k.part = some p → s.block? k.block = some b → s.grid? b.grid = some g → c ∈ k.left →
    s.parked (.copy k.id) = false → p.served = true →
    copyBlocked s k (spadSpots csp spot.1 (spot.2 + 512 * c) ts.length ++ tileGlobal s p (dieOfCluster b.cluster) k.record ts false) = false →
    fetchTile s p b.coreIndex k.record ts = .ok (s1, ms) → ms.any Prod.snd = false → (s.block? spot.1).isSome →
    secs.find? (fun y => ! k.pieces.contains (c, y)) = some x →
    ∃ t, exec (.copyChunkWrite k.id c) s = .next t ∧ SectorDone s t k c c x secs ∧
      ∀ i, i < ts.length → t.spByte csp spot.1 (spot.2 + 512 * c + i) =
        if (spot.2 + 512 * c + i) / 32 = x then (ms.map Prod.fst).getD i 0 else s.spByte csp spot.1 (spot.2 + 512 * c + i)) ∧
  (∀ s k c p b g as_ x t0,
    let csp := k.space == .csp
    let ts := chunkBytes (recTotal k.record) c
    let spot := copyTile s k b g
    let secs := sectorsOf (as_.filterMap id)
    let va := fun (t : Nat) => (tileSource k.record t).getD 0
    let mine := (List.range (recTotal k.record)).filter (fun t => (tileSource k.record t).isSome && va t / 32 == va t0 / 32)
    let place := fun (t : Nat) => 32 * x + va t % 32
    s.copy? k.id = some k → k.kind = .store → s.part? k.part = some p → s.block? k.block = some b → s.grid? b.grid = some g → c ∈ k.left →
    s.parked (.copy k.id) = false → p.served = true → tileAddrs s p (dieOfCluster b.cluster) k.record ts true = .ok as_ →
    secs.find? (fun y => ! k.pieces.contains (64, y)) = some x →
    ((List.zip ts as_).find? (fun t => t.2.any (fun a => a / 32 == x))).map Prod.fst = some t0 →
    copyBlocked s k (mine.flatMap (fun t => spadSpots csp spot.1 (spot.2 + t) 1) ++ secs.map (fun y => (0, 0, y))) = false →
    ∃ t, exec (.copyChunkWrite k.id c) s = .next t ∧ SectorDone s t k c 64 x secs ∧
      ((mine.map place).Nodup → (∀ m ∈ mine, tileHalf k.record m = false ∧
          ∀ u ∈ chunkBytes (recTotal k.record) (m / 512), s.sramIsBad spot.1 csp (spot.2 + u) = false) →
        ∀ m ∈ mine,
          let v := s.spByte csp spot.1 (spot.2 + m)
          (k.scope.wideCl = false → t.viewByte b.coreIndex (place m) = v) ∧
          (k.scope.wideCl = true → s.l1Up b.coreIndex = true → s.homeUp p (32 * x) = true → t.byte (place m) = v))) ∧
  (∀ s k c p s1 ms as_,
    let src := word64 k.record 0
    let dst := word64 k.record 2
    let lo := max dst ((dst / 32 + c) * 32)
    let n := min (dst + word k.record 4) ((dst / 32 + c + 1) * 32) - lo
    s.copy? k.id = some k → k.kind = .packet → s.part? k.part = some p → c ∈ k.left → s.parked (.copy k.id) = false → p.served = true →
    fetchPacket s p (src + (lo - dst)) n = .ok (s1, ms) → feAddrs s p lo n true = .ok as_ → feAddrs s1 p lo n true = .ok as_ →
    ms.any Prod.snd = false → as_.Nodup →
    ∃ t, exec (.copyChunkWrite k.id c) s = .next t ∧
      t.copy? k.id = (if k.left.filter (· != c) = [] then none else some { k with left := k.left.filter (· != c) }) ∧
      ∀ i, i < n → t.byte (as_.getD i 0) = (ms.map Prod.fst).getD i 0) ∧
  (∀ s k c p s1 ms,
    let at_ := word k.record 2 * 4096 + 512 * c
    s.copy? k.id = some k → k.kind = .wsload → s.part? k.part = some p → c ∈ k.left → s.parked (.copy k.id) = false → p.served = true →
    fetchPacket s p (word64 k.record 0 + 512 * c) 512 = .ok (s1, ms) → ms.any Prod.snd = false → p.id < 16 → at_ + 512 ≤ Config.wsBytesPerDie →
    ∃ t, exec (.copyChunkWrite k.id c) s = .next t ∧
      t.copy? k.id = (if k.left.filter (· != c) = [] then none else some { k with left := k.left.filter (· != c) }) ∧
      ∀ die ∈ p.dies, ∀ i, i < 512 → t.wsByte die (shareBase p + at_ + i) = (ms.map Prod.fst).getD i 0) ∧
  (∀ s k p,
    let d := p.dispenser k.slot
    s.copy? k.id = some k → k.kind = .query → s.part? k.part = some p →
    (k.record = [] → (∀ q ∈ s.copies, q.kind = .query → q.wave = k.wave → q.slot = k.slot → q.record = [] → k.id ≤ q.id) →
      ∃ t p', exec (.wdqAnswer k.id) s = .next t ∧ t.part? k.part = some p' ∧
        (d.i < d.x * d.y → t.copy? k.id = some { k with record := [BitVec.ofNat 32 (d.i / d.x * 2 ^ 16 + d.i % d.x)] } ∧
          p'.dispenser k.slot = { d with i := d.i + 1 }) ∧
        (d.x * d.y ≤ d.i → t.copy? k.id = some { k with record := [BitVec.allOnes 32] } ∧ p'.dispenser k.slot = d)) ∧
    (∀ a rest, k.record = a :: rest → copyBlocked s k (spots .sp k.block k.index.toNat 4) = false → (s.block? k.block).isSome →
      ∃ t, exec (.wdqAnswer k.id) s = .next t ∧ t.copy? k.id = none ∧
        (t.block? k.block).map (fun b => (b.tag k.tag).map) = some (BitVec.allOnes 64) ∧
        ∀ i, i < 4 → t.spByte false k.block (k.index.toNat + i) = BitVec.ofNat 8 (a.toNat / 256 ^ i)))

namespace Sys2Proof

/-- The exact value of a number; none for an infinity and a NaN. -/
def exactly : Machine.Num → Option Rat
  | .fin neg m x => some ((if neg then -1 else 1) * (m : Rat) * 2 ^ x)
  | _ => none

/-- The value of element (m, k) of an operand: from its V registers (R262), or at R261's distance from its base in a scratchpad or the
weight store. None where the register is poisoned or its lane was not live, a byte cannot be corrected, or the element is no finite
number (R113, R397). -/
def operandElement (s : State) (e : Engine) (d : Side) (m k : Nat) : Option Rat :=
  let f := (elemFmt (slotElem (e.grid.formats.getD d.slot 0))).getD (.float fp32)
  let w := f.width
  if d.src = 0 then
    match e.wave with
    | none => none
    | some v =>
      let r := v.readV (d.base % 2 ^ 8 + k * w / 32) m
      if e.op.live.getLsbD m && ! r.pz then exactly (f.decode (r.val.toNat / 2 ^ (k * w % 32) % 2 ^ w)) else none
  else
    let pitch := d.high / 2 ^ 16 % 2 ^ 12 * 64
    let row := d.high % 2 ^ 16
    let rot := d.high / 2 ^ 29
    let at_ := k / 64 * pitch + m * row + (k % 64 * w / 8 + m * rot % 8 * w) % (8 * w)
    let bs := (List.range ((w + 7) / 8)).map (fun i => engineByte s e d.src (d.origin + d.base) (at_ + i))
    if bs.any Prod.snd then none else exactly (f.decode (bytesToNat (bs.map Prod.fst) / (if w = 4 then 16 ^ (k % 2) else 1) % 2 ^ w))

/-- The exponent of the scale that applies to element (m, k): 0 for an operand that is not scaled, none for a NaN scale (R107, R263). -/
def operandScale (s : State) (e : Engine) (d : Side) (m k : Nat) : Option Int :=
  let word := e.grid.formats.getD d.slot 0
  let blk := 2 ^ slotBlk word
  if slotScale word ≠ 1 then some 0
  else
    let x := engineByte s e d.src (d.origin + d.scale) (m * ((pbK e.op.pb + blk - 1) / blk) + k / blk)
    if x.2 || x.1.toNat == 255 then none else some ((x.1.toNat : Int) - 127)

/-- The contribution groups of K-chunk `j`: single products, or 2^b consecutive values of k where b is the smaller BLK of the scaled operands
(R110). -/
def chunkGroups (g : Grid) (pb : List Word) (j : Nat) : List (List Nat) :=
  let words := [g.formats.getD (sideA pb).slot 0, g.formats.getD (sideB pb).slot 0]
  let size := match ((words.filter (fun f => slotScale f == 1)).map slotBlk).min? with
    | none => 1
    | some b => 2 ^ b
  let ks := (List.range (min 64 (pbK pb - 64 * j))).map (64 * j + ·)
  ((ks.map (· / size)).eraseDups).map (fun i => ks.filter (fun k => k / size == i))

/-- A contribution: the exact sum of the products of its group times the scales that apply; none for a NaN contribution (R110, R113). -/
def groupValue (s : State) (e : Engine) (row col : Nat) (ks : List Nat) : Option Rat := do
  let products ← ks.mapM (fun k => do
    let a ← operandElement s e (sideA e.op.pb) row k
    let b ← operandElement s e (sideB e.op.pb) col k
    some (a * b))
  let x ← operandScale s e (sideA e.op.pb) row (ks.headD 0)
  let y ← operandScale s e (sideB e.op.pb) col (ks.headD 0)
  some (products.sum * 2 ^ (x + y))

/-- The contributions of chunk `j` to element (row, col). -/
def contributions (s : State) (e : Engine) (row col j : Nat) : List (Option Rat) :=
  (chunkGroups e.grid e.op.pb j).map (groupValue s e row col)

/-- The contribution's magnitude is below 2^(E + 38) (R111). -/
def isKept (e : Int) (c : Rat) : Bool := decide (-(2 ^ (e + 38) : Rat) < c) && decide (c < (2 ^ (e + 38) : Rat))

/-- What one step (t, j) of an operation does to its tile slot and its flags (R110 to R113, R265), as `new` and `next`: every element inside
M and N gets the kept contributions, each floored to a multiple of 2^(E - 64), wrapped into K, and is tainted by a NaN contribution. Under
INIT the sub-tile's first step starts from zero. `carry` holds what an exact sum is off by, in units of 2^128. -/
structure Stepped (s : State) (e : Engine) (t j : Nat) (residue : Bool) (old new : Acc) (next : MxOp) : Prop where
  element : ∀ r c, r < 32 → c < 32 →
    let pb := e.op.pb
    let cols := (pbN pb + 31) / 32
    let start := (pb.getD 14 0).toNat
    let fresh := pbInit pb && (j == 0 || (start / 2 ^ 27 == t && start % 2 ^ 19 == j))
    let row := t / cols * 32 + r
    let col := t % cols * 32 + c
    let exp := (BitVec.ofNat 8 ((pb.getD 2 0).toNat / 2 ^ 24)).toInt
    let before := if fresh then AccElem.start else Sparse.get .start old.elems (32 * r + c)
    let after := Sparse.get .start new.elems (32 * r + c)
    let cs := contributions s e row col j
    let sum := before.k.toInt + ((cs.filterMap id).filter (isKept exp) |>.map (fun x => (x / 2 ^ (exp - 64)).floor)).sum
    let off := Sparse.get 0 next.carry (32 * r + c) - (if fresh then 0 else Sparse.get 0 e.op.carry (32 * r + c))
    (row < pbM pb → col < pbN pb →
      after.taint = (before.taint || cs.contains none || residue) ∧ (residue = false → after.k = BitVec.ofInt 128 sum) ∧
      2 ^ 128 * off = sum - (BitVec.ofInt 128 sum).toInt ∧
      (none ∈ cs → next.nan = true ∧ next.flagged = true) ∧
      (∀ x, some x ∈ cs → isKept exp x = false → next.range = true ∧ next.flagged = true)) ∧
    (pbM pb ≤ row ∨ pbN pb ≤ col → after = Sparse.get .start old.elems (32 * r + c) ∧ off = 0)
  causes :
    let pb := e.op.pb
    let cols := (pbN pb + 31) / 32
    let exp := (BitVec.ofNat 8 ((pb.getD 2 0).toNat / 2 ^ 24)).toInt
    let some_ := fun (p : Option Rat → Prop) => ∃ row col, t / cols * 32 ≤ row ∧ row < min (pbM pb) (t / cols * 32 + 32) ∧
      t % cols * 32 ≤ col ∧ col < min (pbN pb) (t % cols * 32 + 32) ∧ ∃ c ∈ contributions s e row col j, p c
    let isNan := fun (c : Option Rat) => c = none
    let isOut := fun (c : Option Rat) => ∃ x, c = some x ∧ isKept exp x = false
    (next.nan = true → e.op.nan = true ∨ some_ isNan) ∧ (next.range = true → e.op.range = true ∨ some_ isOut) ∧
    (next.flagged = true → e.op.flagged = true ∨ some_ isNan ∨ some_ isOut ∨ residue = true)
  kept : (e.op.nan = true → next.nan = true) ∧ (e.op.range = true → next.range = true) ∧
    (e.op.flagged = true ∨ residue = true → next.flagged = true)
  residues : next.residue = (e.op.residue || residue)
  rest : { next with nan := e.op.nan, range := e.op.range, residue := e.op.residue, carry := e.op.carry, flagged := e.op.flagged } = e.op
  slot : { new with elems := old.elems } = old

/-- The status word of an operation (R267). -/
def StatusIs (st : Word) (o : MxOp) (done : Bool) : Prop :=
  st.getLsbD 0 = done ∧ st.getLsbD 1 = o.nan ∧ st.getLsbD 2 = o.range ∧ st.getLsbD 3 = o.wrap ∧ st.getLsbD 4 = o.residue ∧
  st.getLsbD 5 = o.preempted ∧ st.extractLsb' 6 2 = 0 ∧ st.extractLsb' 8 8 = BitVec.ofNat 8 (min o.count 255) ∧ st.extractLsb' 16 16 = 0

end Sys2Proof

/-- R110 to R113, R265 to R267, R279, R280: a step adds its chunk of K to every element of its sub-tile, exactly, and goes on to
the next, the last step leaving the final status and freeing slots and locks; a multicast delivery writes a sector of a
receiver's chunk and sets the bit of its RTAG after the last. The model's part: An element after two residue mismatches is a
free value (log 4), and an unreadable operand byte counts as a NaN (log 25). -/
def Obligations.MatrixStepsAndDeliveries : Prop :=
  (∀ s b ctx o g p (residue : Bool),
    let t := (b.ctx ctx).progress.toNat / 2 ^ 27
    let j := (b.ctx ctx).progress.toNat % 2 ^ 19
    let e : Engine := { block := b, grid := g, part := p, wave := s.wave? o.wave, op := o }
    let last := fun (n : MxOp) =>
      let wrap := n.carry.any (fun e => e.2 != 0)
      { n with wrap := n.wrap || wrap, count := n.count + (n.flagged || wrap).toNat, flagged := false, carry := [] }
    s.block? b.uid = some b → (b.ctx ctx).op = some o → s.grid? b.grid = some g → s.part? g.part = some p →
    t < pbT o.pb → j < pbJ o.pb → Sparse.isWf 0 o.carry = true →
    (∀ a ∈ stepBanks g o.pb t j, inWindow (s.timeOf p) (wsBank a) = false) →
    ∃ u b' tile next, exec (.mxaStep b.uid ctx residue) s = .next u ∧ u.block? b.uid = some b' ∧
      Stepped s e t j residue (b.acc (pbAcc o.pb + t)) tile next ∧
      let o' := if j + 1 = pbJ o.pb then last next else next
      (j + 1 < pbJ o.pb ∨ t + 1 < pbT o.pb →
        { u with blocks := s.blocks, draws := s.draws, module := s.module, events := s.events } = s ∧
        { u.module with errors := s.module.errors } = s.module ∧ (∀ n, n ≠ b.uid → u.block? n = s.block? n) ∧
        b'.acc (pbAcc o.pb + t) = tile ∧ (∀ n, n ≠ pbAcc o.pb + t → b'.acc n = b.acc n) ∧ (∀ n, n ≠ ctx → b'.ctx n = b.ctx n) ∧
        (b'.ctx ctx).op = some o' ∧ StatusIs (b'.ctx ctx).status o' false ∧
        (b'.ctx ctx).progress = BitVec.ofNat 32 (if j + 1 < pbJ o.pb then t * 2 ^ 27 + 2 ^ 26 + (j + 1) else (t + 1) * 2 ^ 27 + 2 ^ 26)) ∧
      (¬(j + 1 < pbJ o.pb ∨ t + 1 < pbT o.pb) →
        { b'.acc (pbAcc o.pb + t) with busy := tile.busy } = tile ∧
        (b'.ctx ctx).op = none ∧ StatusIs (b'.ctx ctx).status o' true ∧ (b'.ctx ctx).progress = BitVec.ofNat 32 (pbT o.pb * 2 ^ 27) ∧
        (∀ n, n < pbT o.pb → (b'.acc (pbAcc o.pb + n)).busy = false) ∧
        ∀ w, s.wave? o.wave = some w → ∃ v, u.wave? o.wave = some v ∧ Done v o.pend ∧ ∀ l ∈ v.locks, l.ctx ≠ ctx)) ∧
  (∀ s k p b i c r s1 ms x,
    let r' : Receiver := { r with started := true }
    let k' : Copy := { k with receivers := k.receivers.set i r' }
    let s0 := (if r.started then s else startReceiver s r.block k.rtag k.share).setCopy k'
    let ts := (chunkBytes k.share c).map (deliveredByte k i)
    let dst := recDoff k.record + i * k.stride + 512 * c
    let key := 64 * i + c
    let secs := sectorsFrom dst ts.length
    let left := r.left.filter (· != c)
    let rs := k.receivers.set i { r' with left := left }
    s.copy? k.id = some k → k.kind = .multi → s.part? k.part = some p → s.block? k.block = some b → k.receivers[i]? = some r → c ∈ r.left →
    s.parked (.copy k.id) = false → (s.block? r.block).isSome → r.started = true ∨ rtagBusy s k r.block = false →
    copyBlocked s0 k' (spadSpots false r.block dst ts.length ++ tileGlobal s0 p (dieOfCluster b.cluster) k.record ts false) = false →
    fetchTile s0 p b.coreIndex k.record ts = .ok (s1, ms) → ms.any Prod.snd = false →
    secs.find? (fun y => ! k.pieces.contains (key, y)) = some x →
    ∃ t, exec (.cpmDelivery k.id i c) s = .next t ∧
      (∀ n, n < ts.length → t.spByte false r.block (dst + n) =
        if (dst + n) / 32 = x then (ms.map Prod.fst).getD n 0 else s.spByte false r.block (dst + n)) ∧
      (secs.all (fun y => y == x || k.pieces.contains (key, y)) = false → t.copy? k.id = some { k' with pieces := (key, x) :: k.pieces }) ∧
      (secs.all (fun y => y == x || k.pieces.contains (key, y)) = true →
        ((t.block? r.block).any (fun b => ((b.tag k.rtag).map).getLsbD c) = true ∨ 64 ≤ c) ∧
        ((∃ q ∈ rs, q.left ≠ []) → t.copy? k.id = some { k with receivers := rs, pieces := k.pieces.filter (fun e => e.1 != key) }) ∧
        ((∀ q ∈ rs, q.left = []) → t.copy? k.id = none ∧ (t.block? k.block).any (fun b => ((b.tag k.tag).map).getLsbD 0) = true)))

/-! ### Grants, admission and retirement -/

/-- R58, R60, R61: the test of the grant checker finds a state safe exactly when its residents can be ordered so that each one's
need fits in what is available with the allocations of all before it; grants keep a safe state safe. -/
def Obligations.SafeStates : Prop :=
  (∀ (s : State) cl, s.safe cl = true ↔ ∃ order : List Block, order.Perm (s.residents cl) ∧ ∀ n b, order[n]? = some b →
    vecLe (s.needVec b) (vecAdd (s.available cl) (vecSum ((order.take n).map s.allocVec))) = true) ∧
  (∀ (s : State) cl, s.passes cl = true → s.safe cl = true) ∧
  (∀ s cl t, (s.waves.map Wave.uid).Nodup → s.safe cl = true → exec (.gckRequestTest cl) s = .next t ∨ exec (.gckScan cl) s = .next t → t.safe cl = true)

/-- R56, R59, R63 to R66: the checker's answer to the oldest request of its queue, and one scan of its deferred requests. The
model's part: That a scan is one event, and when an admission may be tested, are the model's readings (log 34). -/
def Obligations.GrantChecker : Prop :=
  (∀ s cl r rest w b,
    let gck := (s.cluster cl).gck
    let s0 := s.onGck cl (fun g => { g with queue := rest })
    let have_ := allocOf w b r.kind
    let s1 := s0.grow w r.kind r.q
    gck.queue = r :: rest → gck.scan = false → s.wave? r.wave = some w → s.block? w.block = some b →
    (r.q ≠ 0 → claimOf w b r.kind < have_ + r.q → exec (.gckRequestTest cl) s = .next (s0.onWave w.uid (fun w => { w with wait := some .exceeded }))) ∧
    (r.q = 0 ∨ have_ + r.q ≤ claimOf w b r.kind →
      (r.q = 0 ∨ s1.passes cl = true → r.kind < 6 → ∃ t w' b', exec (.gckRequestTest cl) s = .next t ∧ t.wave? r.wave = some w' ∧ t.block? w.block = some b' ∧
        w'.wait = some (.granted (BitVec.ofNat 32 (2 ^ 31 + r.kind * 2 ^ 28 + 63 * 2 ^ 22 + (have_ + r.q)))) ∧
        allocOf w' b' r.kind = have_ + r.q ∧
        (t.cluster cl).gck = { gck with queue := rest, fifo := gck.fifo.map (fun d => { d with passed := d.passed + 1 }) }) ∧
      (r.q ≠ 0 → s1.passes cl = false → gck.fifo.length < 64 → ∃ t e, exec (.gckRequestTest cl) s = .next t ∧
        (∀ d ∈ gck.fifo, d.entry ≠ e) ∧
        (t.cluster cl).gck = { gck with queue := rest, fifo := gck.fifo ++ [{ r with entry := e, passed := 0 }] } ∧
        t.wave? r.wave = some (if r.waits then w else
          { w with wait := some (.deferred (BitVec.ofNat 32 (r.kind * 2 ^ 28 + e * 2 ^ 22 + have_))) })) ∧
      (r.q ≠ 0 → s1.passes cl = false → 64 ≤ gck.fifo.length →
        exec (.gckRequestTest cl) s = .next (s0.onWave w.uid (fun w => { w with wait := some .fifoFull }))))) ∧
  (∀ s cl, (s.cluster cl).gck.scan = true → exec (.gckRequestTest cl) s = .next s) ∧
  (∀ s cl, (s.cluster cl).gck.scan = true →
    ∃ t, exec (.gckScan cl) s = .next t ∧ (t.cluster cl).gck.scan = (s.cluster cl).gck.again ∧ (t.cluster cl).gck.again = false ∧
      ((t.cluster cl).gck.fifo.map GrantRequest.entry).Sublist ((s.cluster cl).gck.fifo.map GrantRequest.entry) ∧
      (∀ u w b, s.wave? u = some w → w.wait = some .fifoFull → s.block? w.block = some b → b.cluster = cl →
        (∀ r ∈ (s.cluster cl).gck.fifo, r.wave ≠ u) → (t.wave? u).map Wave.wait = some none) ∧
      ∀ r w b, (s.cluster cl).gck.fifo = [r] → s.wave? r.wave = some w → s.block? w.block = some b → r.kind < 6 →
        let s1 := (s.onGck cl (fun g => { g with scan := g.again, again := false })).grow w r.kind r.q
        (s1.passes cl = false → (t.cluster cl).gck.fifo = [r]) ∧
        (s1.passes cl = true → (t.cluster cl).gck.fifo = [] ∧ ∃ w' b', t.wave? r.wave = some w' ∧ t.block? w.block = some b' ∧
          allocOf w' b' r.kind = allocOf w b r.kind + r.q ∧
          let h := BitVec.ofNat 32 (2 ^ 31 + r.kind * 2 ^ 28 + r.entry * 2 ^ 22 + (allocOf w b r.kind + r.q))
          (w.wait = none → ∀ n, r.dst = .s n → w'.readS n = { val := h, full := true, pz := r.pz }) ∧
          (w.wait = some .grant → w'.wait = some (.granted h))))

/-- R25, R41, R42, R47, R49, R52, R53, R73, R177, R212, R355: the gatherer forms a task wave, an admission makes its blocks
resident with every register at its start value, STALL and YIELD gaps end, and a wave that has nothing left retires, the last
with its block. The model's part: The place of an admission is an argument of the event (log 10), what a retirement does with
undelivered copy errors is the model's reading (log 35), the write-backs of a retirement and the copies that an admission drops
are too (log 14), and the clock edges that an event reaches are log 5 and log 50. -/
def Obligations.WavesComeAndGo : Prop :=
  (∀ s id entry g p,
    let mine := p.tasks.filter (fun t => t.grid == id && t.entry == entry)
    s.grid? id = some g → s.part? g.part = some p → mine ≠ [] →
    (32 ≤ mine.length ∨ onlyTasks s g = true ∨ ∀ r, mine.head? = some r → s.canReach (r.since + 1000) = true) →
    ∃ t q, exec (.taskGatherTimeout id entry) s = .next t ∧ t.part? p.id = some q ∧
      q.taskWaves = p.taskWaves ++ [{ grid := id, records := mine.take 32, resume := 0 }] ∧
      q.tasks = p.tasks.filter (fun r => ! (mine.take 32).contains r) ∧
      (mine.length < 32 → onlyTasks s g = false → ∀ r, mine.head? = some r → r.since + 1000 ≤ t.module.time)) ∧
  (∀ s part id (task : Bool) places c p g v,
    let unit := s.unitOf g task
    s.grid? id = some g → g.part = part → quantumOf s part g.queue true = some c → s.part? part = some p →
    nextGrid s c = some id → mayAdmit s p (wsHold s p) unit = true → inRotation s p g unit places = true →
    placeAll p .admission s 0 unit places = some v →
    ∃ t, exec (.admitUnit part id task places) s = .next t ∧ t.blocks = v.blocks ∧ t.waves = v.waves ∧
      ∀ i seat pl, unit = [(i, seat)] → places = [pl] →
        v.blocks = s.blocks ++ [startBlock i pl s.fresh] ∧
        v.waves = s.waves ++ (List.range i.waves).map (fun n => startWave p i pl (s.fresh + 1 + n) s.fresh n) ∧
        (∀ e ∈ v.clean, e.core ≠ pl.cluster * Config.coresPerCluster + pl.core)) ∧
  (∀ p i pl uid blk n,
    let w := startWave p i pl uid blk n
    (∀ r, w.readS r = { val := 0, full := true, pz := false }) ∧
    (∀ q l, q ≠ 7 → w.readP q l = { val := false, pz := false }) ∧ w.g = i.grid.ranges ∧ w.handler = false ∧ w.pend = [] ∧
    (∀ cls, w.counter cls = 0) ∧ (i.task = false → (startBlock i pl uid).c = i.grid.slots) ∧
    (i.task = false → (∀ r l, w.readV r l = { val := 0, full := true, pz := false }) ∧
      ∀ l, l < 32 → (w.lane l).state = .live ∧ (w.lane l).pc = i.grid.entry ∧ (w.lane l).stack = []) ∧
    (i.task = true → ∀ l, l < 32 → match i.records[l]? with
      | none => (w.lane l).state = .absent
      | some t => (w.lane l).state = .live ∧ (w.lane l).pc = t.entry ∧ (w.lane l).task = t.id ∧
          w.readV 0 l = { val := t.addr.extractLsb' 0 32, full := true, pz := false } ∧
          w.readV 1 l = { val := t.addr.extractLsb' 32 32, full := true, pz := false })) ∧
  (∀ s u w b,
    let clock := fun (t : State) => (t.cluster b.cluster).clock
    let step := (Sparse.get .start s.module.thermal (dieOfCluster b.cluster)).step
    let edges := fun (k : Nat) => BitVec.ofNat 64 (if step < 3 then k else 2 * k - (clock s).toNat % 2)
    s.wave? u = some w → s.block? w.block = some b →
    (∃ t v, exec (.stallExpire u) s = .next t ∧ t.wave? u = some v ∧ v.stall = 0 ∧ { v with stall := w.stall, yielded := w.yielded } = w ∧
      clock t = clock s + edges w.stall) ∧
    (∀ y, w.yielded = some y → ∃ t v, exec (.yieldExpire u) s = .next t ∧ t.wave? u = some v ∧ v.yielded = none ∧
      v.stall = w.stall - y.left ∧ { v with stall := w.stall, yielded := w.yielded } = w ∧ clock t = clock s + edges y.left)) ∧
  (∀ s u w b g p,
    s.wave? u = some w → s.block? w.block = some b → s.grid? b.grid = some g → s.part? g.part = some p → w.retired = false → w.liveLanes = [] →
    (∀ q ∈ w.pend, q.kind = .receive) → engineBusy s w = false →
    let last := ∀ x ∈ s.wavesOf b.uid, x.retired = true ∨ x.uid = u
    let failed := w.copyError = true ∨ w.backError = true ∨ last ∧ ((∃ x ∈ s.wavesOf b.uid, x.backError = true) ∨
      ∃ d ∈ s.dirty, d.core = b.coreIndex ∧ s.l1Up d.core = true ∧ s.homeUp p (32 * d.sector) = true ∧ s.backBad d = true ∧
        ∃ x ∈ s.wavesOf b.uid, x.uid = d.wave)
    (failed → ∃ t, exec (.waveRetire u) s = .next t ∧ t.grid? g.id = none) ∧
    (¬failed → ¬last → exec (.waveRetire u) s = .next (s.onWave u (fun w => { w with retired := true, pend := [] }))) ∧
    (¬failed → last → awaitsDelivery s b = false →
      (∀ d ∈ s.dirty, d.core = b.coreIndex → s.l1Up d.core = true ∧ s.homeUp p (32 * d.sector) = true) →
      ∃ t, exec (.waveRetire u) s = .next t ∧ t.block? b.uid = none ∧ (∀ x ∈ t.waves, x.block ≠ b.uid) ∧
        (∀ d ∈ t.dirty, d.core ≠ b.coreIndex) ∧ (t.cluster b.cluster).gck.scan = true ∧
        (t.cluster b.cluster).gck.again = (s.cluster b.cluster).gck.scan ∧
        (b.task = false → ∀ h, t.grid? g.id = some h → b.lin ∈ h.retired)))

/-! ### Images, power and partitions -/

namespace Sys2Proof

/-- RESUME as a restore leaves it (R77): the image's epoch, TORN, FALLBACK and the cause. -/
def resumeOf (i : Image) (torn : Bool) (cause : Nat) : Word :=
  BitVec.ofNat 32 (i.epoch % 2 ^ 16 * 2 ^ 16 + (if torn then 8 else 0) + (if i.current then 0 else 4) + cause)

end Sys2Proof

/-- R132, R387 to R391, R394, R413: write-behind lowers the backlog, an image closes over its cluster's state, a loss of power
closes or tears it, Dawn restores the blocks of a complete image, and a cluster with none loses its grids. The model's part:
What becomes of requests and faults at a loss, and how limits are restored, are the model's readings (logs 36 and 37), and so
are the granules of the shadow (log 11). -/
def Obligations.TileImages : Prop :=
  (∀ s cl kib,
    let c := s.cluster cl
    let n := min (kib / 4) c.dirtyOpen.length
    s.shadowed cl = true → c.wbUsed + 4 * n ≤ s.module.activity.wb →
    ∃ t, exec (.shadowWriteBehind cl kib) s = .next t ∧ { t with clusters := s.clusters } = s ∧ (∀ k, k ≠ cl → t.cluster k = s.cluster k) ∧
      t.cluster cl = { c with dirtyOpen := c.dirtyOpen.take (c.dirtyOpen.length - n), wbUsed := c.wbUsed + 4 * n } ∧
      (t.cluster cl).backlog = c.backlog - 4 * n) ∧
  (∀ (s t : State) cl, s.shadowed cl = true → t.shadowed cl = true → (∃ b ∈ t.blocks, b.cluster = cl) →
    (∀ g ∈ s.touched t cl, g ∈ t.granules cl → g ∈ ((s.noteWrites t).cluster cl).dirtyOpen ∧ g ∈ ((s.noteWrites t).cluster cl).dirtyClosed)) ∧
  (∀ s cl,
    let c := s.cluster cl
    c.power = true → s.isStopped cl = false → c.dirtyOpen = [] → s.canReach (c.lastClose + 10000) = true →
    ∃ t i, exec (.imageClose cl) s = .next t ∧
      { t with clusters := s.clusters, module := s.module, parts := s.parts, events := s.events } = s ∧
      c.lastClose + 10000 ≤ t.module.time ∧ (t.cluster cl).epoch = c.epoch + 1 ∧ (t.cluster cl).dirtyOpen = c.dirtyClosed ∧
      ((t.cluster cl).imageA = some i ∨ (t.cluster cl).imageB = some i) ∧ i.epoch = c.epoch + 1 ∧ i.complete = true ∧
      i.waves = s.clusterWaves cl ∧ i.blocks = s.residents cl ∧ i.dirty = s.dirty.filter (fun d => d.core / Config.coresPerCluster == cl)) ∧
  (∀ s cl (torn : Bool),
    let c := s.cluster cl
    c.power = true → s.isStopped cl = false →
    ∃ t i, exec (.tilePowerLoss cl torn) s = .next t ∧ (t.cluster cl).power = false ∧ (t.cluster cl).torn = torn ∧ t.residents cl = [] ∧
      t.mem = s.mem ∧ t.dirty = s.dirty ∧
      (t.cluster cl).epoch = (if torn then c.epoch else c.epoch + 1) ∧
      ((t.cluster cl).imageA = some i ∨ (t.cluster cl).imageB = some i) ∧ i.complete = ! torn ∧ i.current = true ∧
      i.waves = s.clusterWaves cl ∧ i.blocks = s.residents cl) ∧
  (∀ s cl core,
    (s.cluster cl).power = false → s.isStopped cl = false → 4 ≤ core →
    (∀ i, (s.cluster cl).pick = some i → i.current = true → (i.blocks.map Block.uid).Nodup →
      ∃ t, exec (.dawnResume cl core) s = .next t ∧ (t.cluster cl).power = true ∧
        ∀ b ∈ i.blocks, stillPlaced s cl b = true → (s.grid? b.grid).any Grid.restart = false →
          b.resumed (resumeOf i (s.cluster cl).torn 1) ∈ t.blocks) ∧
    ((s.cluster cl).pick = none → (∀ g ∈ s.grids, (s.part? g.part).isSome) →
      ∃ t, exec (.dawnResume cl core) s = .next t ∧ (t.cluster cl).power = true ∧ ∀ g ∈ gridsIn s cl, t.grid? g.id = none))

/-- R132, R366, R367, R392 to R394: a module power loss leaves what is non-volatile and stops every partition; a resume, once
requested, gives the partition its new EPOCH; a pre-emption closes its clusters' images, and its resume restores them. The
model's part: What becomes of requests and limits are the model's readings (logs 36 and 37), and that a lost byte reads as zero
is the model's choice (log 3). -/
def Obligations.ModuleImages : Prop :=
  (∀ s torn, ∃ t, exec (.modulePowerLoss torn) s = .next t ∧
    (∀ a, t.byte a = if survives a then s.byte a else 0) ∧ t.ws = [] ∧ t.tlb = [] ∧ t.faults = [] ∧ t.module.boot = 0 ∧
    t.module.mstate = .idle ∧ t.module.nonce = 0 ∧ (∀ p ∈ t.parts, p.preempted = false ∧ p.lost = true ∧ p.recreated = false) ∧
    (∀ g ∈ t.grids, g.kconst = []) ∧ t.bad = s.bad ∧ t.wsBad = s.wsBad ∧
    ∀ cl, cl < Config.clusters → (t.cluster cl).power = false) ∧
  (∀ s p q, s.part? p = some q →
    (∃ t q', exec (.tlastWrite p) s = .next t ∧ { t with parts := s.parts } = s ∧ t.part? p = some q' ∧
      q' = { q with tlast := BitVec.ofNat 64 (s.timeOf q) }) ∧
    (∀ constants, q.lost = true → q.recreated = true → s.module.boot = 8 → (∀ k ∈ s.copies, k.kind = .wsload → k.part ≠ p) →
      ∃ t q', exec (.moduleResumeRequest { part := p, constants := constants }) s = .next t ∧ t.part? p = some q' ∧ q'.lost = false ∧
        q'.preempted = q.preempted ∧
        (q'.epoch : Int) = ((s.module.time : Int) - q.tlast.toNat - 64000) / 64000 * 64000 % 2 ^ 64) ∧
    (q.preempted = false → q.lost = false → (s.drain q).drained q = true →
      ∃ t q', exec (.preempt p) s = .next t ∧ t.part? p = some q' ∧ q'.preempted = true ∧
        (∀ b ∈ t.blocks, q.hasCluster b.cluster = true → (t.cluster b.cluster).power = false) ∧
        ∀ cl ∈ q.clusters, (s.cluster cl).power = true → (t.cluster cl).epoch = (s.cluster cl).epoch + 1 ∧
          ∃ i, ((t.cluster cl).imageA = some i ∨ (t.cluster cl).imageB = some i) ∧ i.epoch = (s.cluster cl).epoch + 1 ∧ i.complete = true ∧
            i.current = true) ∧
    (q.preempted = true → q.lost = false → (∀ cl ∈ q.clusters, (s.cluster cl).power = true ∧ s.oldServed cl = true) →
      (∀ cl ∈ q.clusters, ∃ i, (s.cluster cl).pick = some i ∧ i.current = true ∧ (i.blocks.map Block.uid).Nodup ∧
        ∀ k ∈ q.clusters, k ≠ cl → ∀ j, (s.cluster k).pick = some j → ∀ b ∈ i.blocks, ∀ e ∈ j.blocks, b.uid ≠ e.uid) →
      ∃ t q', exec (.preemptResume p) s = .next t ∧ t.part? p = some q' ∧ q'.preempted = false ∧
        (∀ cl ∈ q.clusters, ∀ image, (s.cluster cl).service.next = some image → (t.cluster cl).service = { image := image, next := none }) ∧
        ∀ cl ∈ q.clusters, ∀ i, (s.cluster cl).pick = some i → ∀ b ∈ i.blocks, stillPlaced s cl b = true →
          b.resumed (resumeOf i (s.cluster cl).torn 3) ∈ t.blocks))

/-- R126, R251, R352, R367, R395, R396: a partition is created cleared, with EPOCH at a multiple of 64,000 ns, and destroyed
whole; a verified image goes to every service store, which swaps it in once its queue has drained. The model's part: When an
event has an effect at all follows the model's reading of creation and destruction (log 38). -/
def Obligations.PartitionsAndStores : Prop :=
  (∀ s p start domains wssz arena, mayCreate s p start domains wssz = true →
    (∀ q ∈ s.parts, q.isFormer p start domains wssz arena = false) →
    ∃ t q, exec (.partitionCreate p start domains wssz arena) s = .next t ∧ t.part? p = some q ∧
      q = Part.create p start domains wssz arena s.module.time ∧ q.budget.clus = 8 * domains ∧ q.epoch % 64000 = 0 ∧
      s.module.time ≤ q.epoch ∧ q.epoch < s.module.time + 64000 ∧
      ∀ cl ∈ domainClusters start domains, (t.cluster cl).imageA = some .blank ∧ (t.cluster cl).imageB = none ∧ (t.cluster cl).epoch = 0 ∧
        (t.cluster cl).gck.queue = [] ∧ (t.cluster cl).gck.fifo = []) ∧
  (∀ s p q arena, s.part? p = some q → mayCreate s p q.start q.domains q.wssz = true → q.isFormer p q.start q.domains q.wssz arena = true →
    ∃ t q', exec (.partitionCreate p q.start q.domains q.wssz arena) s = .next t ∧ { t with parts := s.parts } = s ∧ t.part? p = some q' ∧
      q'.recreated = true ∧ q'.lost = true ∧ q'.tlast = q.tlast ∧ q'.queues = q.queues) ∧
  (∀ s p q, s.part? p = some q → q.preempted = false → q.lost = false → (∀ b ∈ s.blocks, q.hasCluster b.cluster = false) →
    (∀ g ∈ s.grids, g.part = p → g.placed = [] ∧ g.taskPlaced = []) →
    ∃ t, exec (.partitionDestroy p) s = .next t ∧ t.part? p = none ∧ (∀ g ∈ t.grids, g.part ≠ p) ∧ (∀ k ∈ t.copies, k.part ≠ p) ∧
      (∀ e ∈ t.tlb, e.part ≠ p) ∧ t.mem = s.mem) ∧
  (∀ s p q, s.part? p = some q → q.lost = true →
    (q.recreated = false → exec (.partitionDestroy p) s = .next s) ∧
    (q.recreated = true → ∃ t, exec (.partitionDestroy p) s = .next t ∧ t.part? p = none ∧ (∀ g ∈ t.grids, g.part ≠ p) ∧ t.mem = s.mem ∧
      ∀ cl ∈ q.clusters, (t.cluster cl).imageA = some .blank ∧ (t.cluster cl).imageB = none)) ∧
  (∀ s image (signed : Signed),
    let thadin := signed.ecdsaOk = true ∧ signed.lmsOk = true ∧ signed.keys = romKeys ∧ s.module.security.least .thadin ≤ signed.version
    (¬thadin → exec (.serviceReload image signed) s = .next (s.tell (.serviceRejected image))) ∧
    (thadin → ∃ t, exec (.serviceReload image signed) s = .next t ∧ t.module.serviceImage = image ∧ ∀ cl, cl < Config.clusters →
      t.cluster cl = { s.cluster cl with service := { (s.cluster cl).service with next := some image } })) ∧
  (∀ s cl image, (s.cluster cl).service.next = some image → (s.cluster cl).power = true →
    (∀ r ∈ s.requests, r.home = cl → r.performed = true ∨ r.held = true) →
    ∃ t, exec (.serviceStoreSwap cl) s = .next t ∧ t.cluster cl = { s.cluster cl with service := { image := image, next := none } } ∧
      ∀ r ∈ t.requests, r.home = cl → r.held = false)

/-! ### Queues and packets -/

/-- R322 to R327: a doorbell write takes effect, is kept while SEQ is odd, or faults the queue; a commit takes its part whole,
one with EN = 1 that is not valid makes the slot invalid, and a kept doorbell takes effect after it; the watchdog puts every
slot with an odd SEQ back to its last commit. The model's part: When a kept doorbell takes effect beside the resets of EN is the
model's reading (log 61). -/
def Obligations.QueueControl : Prop :=
  (∀ s p slot wridx q, s.part? p = some q → slot < 64 → s.module.boot = 8 →
    let k := q.queue slot
    let after := fun (k' : Queue) => ∃ t q', exec (.doorbellWrite p slot wridx) s = .next t ∧ t.part? p = some q' ∧ q'.queue slot = k'
    (k.cfg.seq.toNat % 2 = 1 → after { k with doorbell := some wridx }) ∧
    (k.cfg.seq.toNat % 2 = 0 → wridx = k.wridx → after k) ∧
    (k.cfg.seq.toNat % 2 = 0 → wridx ≠ k.wridx → (wridx - k.rdidx).toNat ≤ 2 ^ k.saved.log2n → after { k with wridx := wridx }) ∧
    (k.cfg.seq.toNat % 2 = 0 → wridx ≠ k.wridx → 2 ^ k.saved.log2n < (wridx - k.rdidx).toNat →
      after { k.rewound with flag := .faulted, reason := 13, faddr := BitVec.ofNat 64 (nextAddr q slot) })) ∧
  (∀ s p slot cfg q, s.part? p = some q → slot < 64 →
    let k := q.queue slot
    let c := configOf cfg
    ∃ t q', exec (.qcbCommit p slot cfg) s = .next t ∧ t.part? p = some q' ∧ (q'.queue slot).cfg = c ∧
      (c.seq.toNat % 2 = 1 → q'.queue slot = { k with cfg := c }) ∧
      (c.seq.toNat % 2 = 0 → badConfig cfg = true → CcEvent.queueInvalid p slot ∈ t.events ∧
        ((∀ d, k.doorbell = some d → d = k.wridx ∨ (d - k.rdidx).toNat ≤ 2 ^ c.log2n) →
          q'.queue slot = { k with cfg := c, saved := c, flag := .invalid, doorbell := none, wridx := k.doorbell.getD k.wridx }) ∧
        (∀ d, k.doorbell = some d → d ≠ k.wridx → 2 ^ c.log2n < (d - k.rdidx).toNat →
          (q'.queue slot).flag = .faulted ∧ (q'.queue slot).reason = 13 ∧ (q'.queue slot).wridx = k.wridx)) ∧
      (c.seq.toNat % 2 = 0 → badConfig cfg = false → (q'.queue slot).saved = c ∧ (q'.queue slot).enabled = c.en ∧ (q'.queue slot).doorbell = none ∧
        (c.en = true → k.enabled = false → (∀ d, k.doorbell = some d → d.toNat ≤ 2 ^ c.log2n) → (q'.queue slot).rdidx = 0 ∧
          (q'.queue slot).wridx = k.doorbell.getD 0 ∧ (q'.queue slot).flag = .ok) ∧
        (c.en = true → k.enabled = true → (∀ d, k.doorbell = some d → (d - k.rdidx).toNat ≤ 2 ^ c.log2n) → (q'.queue slot).rdidx = k.rdidx ∧
          (q'.queue slot).wridx = k.doorbell.getD k.wridx ∧ (q'.queue slot).flag = .ok) ∧
        (c.en = false → k.enabled = true → (q'.queue slot).skip = 0 ∧ (q'.queue slot).loop = none ∧
          ∀ r ∈ q'.graphs, r.slot = slot → r.ready = []))) ∧
  (∀ s p slot q, s.part? p = some q → (q.queue slot).cfg.seq.toNat % 2 = 1 →
    ∃ t q', exec .ccWatchdogExpire s = .next t ∧ t.part? p = some q' ∧ (q'.queue slot).cfg = (q.queue slot).saved)

namespace Sys2Proof

/-- Queue `slot` has the next quantum for its packets (R345, R346). -/
def Turn (s : State) (p : Part) (slot : Nat) (c : Chances) : Prop := s.part? p.id = some p ∧ quantumOf s p.id slot false = some c

/-- The packets that take a quantum, by KIND, with their events (R328). -/
def quantumPackets : List (Nat × (Nat → Nat → Instr)) :=
  [(0, .nopPacket), (3, .tasksPacket), (4, .copyPacket), (5, .wsloadPacket), (7, .tlwaitPacket), (8, .tlsigPacket), (9, .fencePacket),
   (10, .markPacket)]

end Sys2Proof

/-- R328, R329, R333, R339, R344 to R346: what stands next in a queue dispatches when its turn has come, and the queue's pass
advances by its stride; a LAUNCH takes no quantum; a COND in WAIT reads its word again a microsecond after its last reading. The
model's part: When a queue rejoins, and that a LAUNCH takes no quantum, are the model's readings (logs 31 and 34), and so are
when a COND is read (log 30) and that a GRAPH's event serves the oldest ready node after the counts that are owed (log 32). -/
def Obligations.Dispatch : Prop :=
  (∀ e ∈ quantumPackets, ∀ s p slot c w s1 v, Turn s p slot c → ahead s p slot = .ok (.packet w, s1) → kindOf w = e.1 →
    (e.1 = 3 → recordsFlight p slot = none) → serve s p slot = .ok (.packet w, v) →
    ∃ t, exec (e.2 p.id slot) s = .next t ∧ t = v.spend p.id slot c false) ∧
  (∀ s p slot f, s.part? p.id = some p → recordsFlight p slot = some f → feedable s p slot f = true →
    exec (.tasksPacket p.id slot) s = .next (s.feed p slot f)) ∧
  (∀ s p slot w s1 s2, s.part? p.id = some p → ahead s p slot = .ok (.packet w, s1) → kindOf w = 1 → LaunchPacket.gang w = false →
    serve s p slot = .ok (.packet w, s2) → firstLaunch s p = some slot → exec (.launchPacket p.id slot) s = .next s2) ∧
  (∀ s p slot c w s1 v, Turn s p slot c → ahead s p slot = .ok (.packet w, s1) → kindOf w = 1 → LaunchPacket.gang w = true →
    serve s p slot = .ok (.packet w, v) →
    exec (.launchPacket p.id slot) s = .next (v.spend p.id slot c false)) ∧
  (∀ s p slot c w s1 v, Turn s p slot c → ahead s p slot = .ok (.packet w, s1) → kindOf w = 2 →
    owingRun s p slot = none → readyRun s p slot = none → serve s p slot = .ok (.packet w, v) →
    exec (.graphPacket p.id slot) s = .next (v.spend p.id slot c false)) ∧
  (∀ s p slot c run v, Turn s p slot c → owingRun s p slot = none → readyRun s p slot = some run →
    Queue.launching s p slot = true → launchNode s p run = .ok v →
    exec (.graphPacket p.id slot) s = .next (v.spend p.id slot c false)) ∧
  (∀ s p slot run, s.part? p.id = some p → owingRun s p slot = some run → exec (.graphPacket p.id slot) s = .next (s.payRun p.id run.table)) ∧
  (∀ s p slot c a s1 v, Turn s p slot c → ahead s p slot = .ok (a, s1) → a.matches 6 = true → waitingCond s p slot = none →
    serve s p slot = .ok (a, v) →
    exec (.condPacket p.id slot) s = .next (v.spend p.id slot c false) ∧
    ((p.queue slot).loop.any (fun l => l.left == 0) = true → exec (.condReevaluate p.id slot) s = .next (v.spend p.id slot c false))) ∧
  (∀ s p slot w at_ s1,
    let s2 := s1.onQueue p.id slot (fun q => { q with polled := some (s1.module.time, false) })
    s.part? p.id = some p → waitingCond s p slot = some w → (p.queue slot).polled = some (at_, false) →
    s.canReach (at_ + 1000) = true → condTest (s.reach (at_ + 1000)) p w = .ok (false, s1) →
    (∀ q, s2.part? p.id = some q → waitingCond s2 q slot = some w) →
    ∃ t q', exec (.condReevaluate p.id slot) s = .next t ∧ t.part? p.id = some q' ∧
      q'.queue slot = { p.queue slot with polled := some (max s.module.time (at_ + 1000), false) })

/-- R328 to R344: what each packet does at its dispatch: RDIDX moves on; a packet that completes at once raises its timeline and
its interrupt; others stay in flight with their grid, copy or graph. The model's part: What STATUS keeps and where RDIDX stands
in a REPEAT are the model's readings (logs 30 and 32). -/
def Obligations.PacketEffects : Prop :=
  ∀ s p slot w v, s.part? p.id = some p → serve s p slot = .ok (.packet w, v) →
    let k := p.queue slot
    let kind := kindOf w
    let sig := (word w 0).testBit 22
    let tl := bits (word w 0) 8 8
    ∃ q, v.part? p.id = some q ∧
      kind ≤ 10 ∧
      (q.queue slot).rdidx = k.rdidx + BitVec.ofNat 32 (if kind = 1 ∧ LaunchPacket.gang w = true then LaunchPacket.gangN w + 1 else 1) ∧
      (kind = 0 ∨ kind = 7 ∨ kind = 9 ∨ kind = 10 → sig = true → q.timeline tl = p.timeline tl + 1) ∧
      (kind = 0 ∨ kind = 7 ∨ kind = 8 ∨ kind = 9 ∨ kind = 10 → (word w 0).testBit 21 = true → CcEvent.msix p.id ∈ v.events) ∧
      (kind = 7 → tlValue w ≤ (p.timeline (tlIndex w)).toNat) ∧
      (kind = 8 → (sig = false ∨ tl ≠ tlIndex w) → q.timeline (tlIndex w) =
        if (word w 1).testBit 8 then BitVec.ofNat 64 (tlValue w) else p.timeline (tlIndex w) + BitVec.ofNat 64 (tlValue w)) ∧
      (kind = 8 ∨ kind = 9 ∨ hasBar w = true → k.flights = []) ∧
      (kind = 4 → word w 5 ≠ 0 → ∃ c ∈ v.copies, c.kind = .packet ∧ c.slot = slot ∧ c.part = p.id ∧ c.index = k.rdidx ∧
        c.record = (w.drop 1).take 5 ∧ ({ index := k.rdidx, work := .copy c.id, sig := sig, irq := (word w 0).testBit 21, tl := tl } : Flight)
          ∈ (q.queue slot).flights) ∧
      (kind = 3 → ∃ g, openGrid s p.id slot = some g ∧ ((word w 4).testBit 0 = true → ∀ h, v.grid? g.id = some h → h.topen = false)) ∧
      (kind = 5 → word w 4 ≠ 0 → kernelResident s p = false ∧ ∃ c ∈ v.copies, c.kind = .wsload ∧ c.slot = slot ∧ c.part = p.id) ∧
      (kind = 1 → LaunchPacket.gang w = false → ∃ g, v.grids = s.grids ++ [g] ∧ g.part = p.id ∧ g.queue = slot ∧ g.index = k.rdidx ∧ g.krec = word64 w 1 ∧
        g.dimX = LaunchPacket.gx w ∧ g.dimY = LaunchPacket.gy w ∧ g.dimZ = LaunchPacket.gz w ∧ g.waves = LaunchPacket.waves w ∧ g.next = 0) ∧
      (kind = 2 → ∃ r ∈ q.graphs, r.table = word64 w 1 ∧ r.slot = slot ∧ r.running = [] ∧ r.index = k.rdidx)

/-! ### Budgets, voltage, time, debugging -/

/-- R51, R55, R127, R351, R354, R356 to R362, R364, R366 to R369: the control core's writes take effect within their ranges, a
period closes its budgets, rails reach the lesser of target and ceiling, and time reaches the instants it is waited for. The
model's part: Measured quantities are arguments and time moves by ticks and deadlines, the model's choices (logs 5 and 12). -/
def Obligations.LimitsAndTime : Prop :=
  (∀ s cl,
    let c := s.cluster cl
    (∀ value, ∃ t, exec (.rblWrite cl value) s = .next t ∧ t.cluster cl = { c with rbl := min value 64 }) ∧
    (∀ kind value, kind = 0 ∨ kind = 1 ∨ kind = 3 ∨ kind = 4 ∨ kind = 5 → ∃ t, exec (.gckLimitWrite cl kind value) s = .next t ∧
      (t.cluster cl).gck.written.of kind = min value (Limits.full.of kind) ∧
      (t.cluster cl).gck.limit.of kind = max (min value (Limits.full.of kind)) ((s.allocated cl).getD (limitIndex kind) 0) ∧
      ∀ k, k < 6 → k ≠ kind → (t.cluster cl).gck.limit.of k = c.gck.limit.of k) ∧
    (∀ slice, 0 < slice → slice < 16 → (∀ w ∈ s.clusterWaves cl, w.slice ≠ slice) → ∃ t, exec (.sliceGate cl slice) s = .next t ∧
      slice ∈ (t.cluster cl).gated ∧ ∀ n, n ≠ slice → (n ∈ (t.cluster cl).gated ↔ n ∈ c.gated)) ∧
    (∀ slice, ∃ t, exec (.sliceWake cl slice) s = .next t ∧ slice ∉ (t.cluster cl).gated ∧
      ∀ n, n ≠ slice → (n ∈ (t.cluster cl).gated ↔ n ∈ c.gated)) ∧
    (∀ rid mv,
      let goal := min (min (max (min mv 1023) 450) 780) (min c.volt.noon c.volt.thermal)
      ∃ t, exec (.vtgtWrite cl rid mv) s = .next t ∧ (t.cluster cl).volt.rid = rid % 64 ∧ (t.cluster cl).volt.mv = min mv 1023 ∧
      (t.cluster cl).volt.vnow = c.volt.vnow ∧ ((t.cluster cl).volt.pending = true ↔ c.volt.vnow ≠ goal) ∧
      (c.volt.vnow = goal → (t.cluster cl).volt.drid = rid % 64 ∧
        (t.cluster cl).volt.out = (if 450 ≤ mv ∧ mv ≤ 780 ∧ mv ≤ min c.volt.noon c.volt.thermal then .done else .clamped)) ∧
      (c.volt.pending = true → .voltageDone cl c.volt.rid .superseded ∈ t.events ∧
        (c.volt.vnow ≠ goal → (t.cluster cl).volt.drid = c.volt.rid ∧ (t.cluster cl).volt.out = .superseded))) ∧
    (c.volt.pending = true →
      let goal := min (min (max c.volt.mv 450) 780) (min c.volt.noon c.volt.thermal)
      s.canReach (s.module.time + (100 * (max c.volt.vnow goal - min c.volt.vnow goal) - c.volt.part)) = true →
      ∃ t, exec (.voltageRequestFinish cl) s = .next t ∧
      (t.cluster cl).volt.vnow = goal ∧ (t.cluster cl).volt.pending = false ∧ (t.cluster cl).volt.drid = c.volt.rid ∧
      (t.cluster cl).volt.out = (if 450 ≤ c.volt.mv ∧ c.volt.mv ≤ 780 ∧ c.volt.mv ≤ min c.volt.noon c.volt.thermal then .done else .clamped) ∧
      s.module.time + (100 * (max c.volt.vnow goal - min c.volt.vnow goal) - c.volt.part) ≤ t.module.time)) ∧
  (∀ s offs,
    let sets := offs < -32768 ∧ s.module.timeSet = false
    ∃ t, exec (.ptpMessage offs) s = .next t ∧ { t with module := s.module } = s ∧
      (¬sets → t.module = { s.module with offs := max (-32768) (min 32767 offs), lock := decide (-20 ≤ offs ∧ offs ≤ 20) }) ∧
      (sets → (t.module.time : Int) = s.module.time - offs ∧ t.module.timeSet = true)) ∧
  (∀ s p q, s.part? p = some q → s.begun q = true → s.timeOf q + 8000 < 2 ^ 64 →
    (s.canReachTime q (nextInstant (s.timeOf q) 0) = true → ∃ t, exec (.vesperWindowStart p) s = .next t ∧ s.timeOf q < t.timeOf q ∧ t.timeOf q ≤ s.timeOf q + 8000 ∧ t.timeOf q % 8000 = 0) ∧
    (s.canReachTime q (nextInstant (s.timeOf q) 2000) = true → ∃ t, exec (.vesperWindowEnd p) s = .next t ∧ s.timeOf q < t.timeOf q ∧ t.timeOf q ≤ s.timeOf q + 8000 ∧ t.timeOf q % 8000 = 2000)) ∧
  (∀ s use, s.module.periodDue ≤ s.module.noonDue → ∃ t, exec (.budgetPeriodBoundary use) s = .next t ∧
    t.module.time = s.module.periodDue ∧ t.module.periodDue = s.module.periodDue + 10000 ∧ t.module.scrubbed = [] ∧
    ((∀ p ∈ s.parts, p.kills = []) → t.module.walked = [] ∧ t.module.moved = []) ∧ (∀ cl, (t.cluster cl).wbUsed = 0 ∧ (t.cluster cl).svUsed = 0) ∧
    t.parts.map Part.id = s.parts.map Part.id ∧
    ∀ p ∈ t.parts, p.debugUsed = 0 ∧ (p.budget.isOpen = true ↔
      (measureOf use p.id).tokens + Sparse.get 0 s.module.moved p.id < p.budget.tok ∧ (measureOf use p.id).watts < p.budget.sus + p.budget.peak)) ∧
  (∀ s die units, Sparse.get 0 s.module.scrubbed die + units.length ≤ s.module.activity.sc →
    ∃ t, exec (.patrolScrub die units) s = .next t ∧ t.mem = s.mem ∧ t.bad = s.bad ∧
      Sparse.get 0 t.module.scrubbed die = Sparse.get 0 s.module.scrubbed die + units.length ∧
      ∀ u ∈ units, s.isBad u = true → ∃ place part, .ecc place u part ∈ t.events)

/-- R214, R353, R358, R359, R362, R364: Noon's microsecond, a die's thermal step, a debugger's access, and writes to registers
by address, read-only ones discarding them. The model's part: What is measured is an argument (log 12), a debugger's cost is the
model's reading (log 39), and the addresses of DVSEC registers are presumed (log 45). -/
def Obligations.NoonThermalAndDebug : Prop :=
  (∀ s pmod use,
    let now := s.module.noonDue
    let hot := ((if 3600 < pmod then [now] else []) ++ s.module.hot).filter (fun t => decide (now < t + 10000000))
    now ≤ s.module.periodDue → ∃ t, exec (.noonTick pmod use) s = .next t ∧ t.module.pmod = min pmod 0x1FFF ∧ t.module.time = now ∧
      t.module.noonDue = now + 1000 ∧
      t.module.hot = hot ∧ t.module.allow = 1000 - hot.length ∧
      (t.module.allow ≤ 100 ∨ 3600 < (s.parts.map (fun p => p.budget.sus)).sum → ∀ p ∈ t.parts, p.budget.peak = 0) ∧
      (t.module.pkon = true ↔ ∃ p ∈ t.parts, p.budget.peak ≠ 0)) ∧
  (∀ s die temp,
    let old := (Sparse.get .start s.module.thermal die).step
    let new := stepAfter old temp
    ∃ t, exec (.thermalStepChange die temp) s = .next t ∧
      Sparse.get .start t.module.thermal die = { step := new, temp := temp % 256 } ∧
      (120 ≤ temp → new = 4) ∧ (temp < 90 → new = 0 ∨ 4 ≤ old ∧ new = 4) ∧ (95 ≤ temp → 1 ≤ new) ∧
      (old < new → .thermal die new ∈ t.events) ∧ (old < 4 → new = 4 → t.module.boot = 0 ∧ ∀ p ∈ t.parts, p.lost = true) ∧
      (old < 2 → 2 ≤ new → new < 4 → ∀ cl, cl < Config.clusters → dieOfCluster cl = die →
        (t.cluster cl).volt.thermal = max 450 ((s.cluster cl).volt.vnow - 60)) ∧
      (2 ≤ old → new < 2 → ∀ cl, cl < Config.clusters → dieOfCluster cl = die → (t.cluster cl).volt.thermal = 780)) ∧
  (∀ s p q (req : DebugRequest), s.part? p = some q → q.debugUsed < s.module.activity.db →
    (q.debugger = true ∨ req = .attach) →
    ∃ t q', exec (.debuggerAccess p req) s = .next t ∧ t.part? p = some q' ∧ q'.debugUsed = q.debugUsed + 1 ∧
      (q'.debugger = match req with | .attach => true | .detach => false | _ => q.debugger) ∧
      (∀ u w, s.wave? u = some w → q.owns s w = true → (req = .stop u → (t.wave? u).map Wave.stopped = some true) ∧
        (req = .resume u ∨ req = .detach → (t.wave? u).map Wave.stopped = some false))) ∧
  (∀ s (value : Word),
    let put := fun (a : Nat) => exec (.registerWrite a value) s
    (∀ cl, cl < Config.clusters → ∃ t, put (0x20000000 + 64 * cl) = .next t ∧ (t.cluster cl).rbl = min (value.toNat % 2 ^ 7) 64 ∧
      (readRegister t (0x20000000 + 64 * cl)).toNat % 2 ^ 16 = min (value.toNat % 2 ^ 7) 64) ∧
    (∀ p q slot, p < 16 → slot < 64 → s.part? p = some q → s.module.boot = 8 → (q.queue slot).cfg.seq.toNat % 2 = 1 →
      ∃ t q', put (2 ^ 42 + 0x1000000 + 0x40000 * p + 0x1000 * slot) = .next t ∧ t.part? p = some q' ∧ (q'.queue slot).doorbell = some value) ∧
    (∀ p q, p < 16 → s.part? p = some q → ∃ t q', put (0x21000000 + 64 * p + 8) = .next t ∧ t.part? p = some q' ∧
      q'.budget.sus = min (value.toNat % 2 ^ 13) 3600) ∧
    (∃ t, put 0x22000010 = .next t ∧ t.module.activity.sv = max 512 (min (value.toNat % 2 ^ 16) 16383)) ∧
    (∀ p q, p < 16 → s.part? p = some q → (∀ b ∈ s.blocks, q.hasCluster b.cluster = false) →
      ∃ t q', put (0x23000000 + 64 * p + 16) = .next t ∧ t.part? p = some q' ∧ q'.xlate = { q.xlate with hsize := value }) ∧
    (∃ t, put 0x25000040 = .next t ∧ ∀ n, n < 7 → value.getLsbD n = true → Sparse.get .start t.module.errors n = .start) ∧
    put 0x25000000 = .next s)

/-! ### Errors, spares, leases, reset -/

/-- R397, R399 to R403: error counts clear by their bits; a port's failed lane goes over to the spare once, then the port goes
down; sixteen failed retries fail a lane; a spare is brought in once for each stack domain and die; a sparing map only ever adds
retirements. The model's part: What counts as corrected, and one spare each, are the model's readings (log 40). -/
def Obligations.ErrorsAndSpares : Prop :=
  (∀ s mask, ∃ t, exec (.errorCountClear mask) s = .next t ∧ ∀ n, Sparse.get .start t.module.errors n =
    if n < 7 ∧ mask.getLsbD n = true then .start else Sparse.get .start s.module.errors n) ∧
  (∀ s n, n < Config.ports → (s.port n).down = false →
    (∃ t, exec (.herrumLaneFail n) s = .next t ∧
      ((s.port n).failedLanes = 0 → t.port n = { failedLanes := 1, retraining := true, down := false, retries := 0 }) ∧
      ((s.port n).failedLanes ≠ 0 → (t.port n).down = true)) ∧
    ((s.port n).retraining = true →
      ∃ t, exec (.laneRetrainComplete n) s = .next t ∧ t.port n = { s.port n with retraining := false }) ∧
    ((s.port n).retraining = false →
      (∃ t, exec (.flitCrcRetry n true) s = .next t ∧ t.port n = { s.port n with retries := 0 } ∧
        (Sparse.get .start t.module.errors 5).corr = min ((Sparse.get .start s.module.errors 5).corr + 1) 0xFFFF) ∧
      (∃ t, exec (.flitCrcRetry n false) s = .next t ∧
        ((s.port n).retries + 1 < 16 → t.port n = { s.port n with retries := (s.port n).retries + 1 }) ∧
        (16 ≤ (s.port n).retries + 1 → (t.port n).failedLanes = (s.port n).failedLanes + 1 ∧
          (Sparse.get .start t.module.errors 5).unc = min ((Sparse.get .start s.module.errors 5).unc + 1) 0xFFFF)))) ∧
  (∀ s domain, domain < Config.domains → (0, domain) ∉ s.module.spares →
    (∀ b ∈ s.blocks, b.cluster / Config.clustersPerDomain ≠ domain) →
    (∀ g ∈ s.grids, ∀ cl ∈ g.clustersPlaced, cl / Config.clustersPerDomain ≠ domain) →
    ∃ t, exec (.hbmChannelSpare domain) s = .next t ∧ (0, domain) ∈ t.module.spares ∧ (∀ a, t.isBad a = true → s.isBad a = true) ∧
      ∀ a, s.isBad a = false → t.byte a = s.byte a) ∧
  (∀ s die bank, die < Config.dies → bank < 8 → (∀ e ∈ s.module.spares, ¬(e.1 = 1 ∧ e.2 / 8 = die)) →
    (∀ p ∈ s.parts, die ∈ p.dies → kernelResident s p = false ∧
      ∀ k ∈ s.copies, ¬(k.kind = .wsload ∧ k.part = p.id)) →
    ∃ t, exec (.edramBankSpare die bank) s = .next t ∧ (1, 8 * die + bank) ∈ t.module.spares ∧
      t.wsBad = s.wsBad.filter (fun u => ! inBank die bank u)) ∧
  (∀ s parts (torn : Bool),
    let x := s.module.security
    (x.locked = false ∨ x.identity = none ∨ (∃ r ∈ x.retired, r ∉ parts) ∨ 2 ^ 20 - 4096 ≤ x.lmsIndex →
      exec (.sparingMapUpdate parts torn) s = .next s) ∧
    (x.locked = true → x.identity ≠ none → (∀ r ∈ x.retired, r ∈ parts) → x.lmsIndex < 2 ^ 20 - 4096 →
      ∃ t, exec (.sparingMapUpdate parts torn) s = .next t ∧ { t with module := s.module } = s ∧
        { t.module with security := x } = s.module ∧ t.module.security.lmsIndex = x.lmsIndex + 1 ∧
        t.module.security.retired = if torn then x.retired else parts))

/-- R403 to R411: an authority enrols with a rising counter, a lease starts while none is active, its end and a recovery reset
start a scrub, which leaves nothing of a tenant; power-on hands off only firmware that verifies and is new enough, and waits in
recovery otherwise. The model's part: What a record says is an argument (log 9), registers return to the model's reset values
where the manual gives none (log 6), and the scrub's phases and the lock are the model's readings (logs 42 and 43). -/
def Obligations.LeasesAndReset : Prop :=
  (∀ s counter keys device form (signed : Signed),
    let x := s.module.security
    let wellFormed := form.magic = 0x4A585243 ∧ form.version = 1 ∧ form.len ≤ 61440
    let thadin := signed.ecdsaOk = true ∧ signed.lmsOk = true ∧ signed.keys = romKeys
    (¬thadin ∨ ¬wellFormed → exec (.leaseAuthorityEnrol counter { device := device, keys := keys, form := form } signed) s = .next s) ∧
    (s.module.takesRecords = true → thadin → wellFormed → (∃ g, x.identity = some (g, device)) → (∀ a, x.authority = some a → a.1 < counter) →
      ∃ t, exec (.leaseAuthorityEnrol counter { device := device, keys := keys, form := form } signed) s = .next t ∧ { t with module := s.module } = s ∧
        t.module.security.authority = some (counter, keys))) ∧
  (∀ s counter lease keys form (signed : Signed),
    let x := s.module.security
    let wellFormed := form.magic = 0x4A585243 ∧ form.version = 1 ∧ form.len ≤ 61440
    let fromAuthority := signed.ecdsaOk = true ∧ signed.lmsOk = true ∧ ∃ a, x.authority = some a ∧ signed.keys = a.2
    (¬fromAuthority ∨ ¬wellFormed ∨ x.leaseRecord ≠ none →
      exec (.leaseStart counter { id := lease, keys := keys, form := form } signed) s = .next s) ∧
    (s.module.takesRecords = true → s.module.recovery = false → fromAuthority → wellFormed → x.leaseRecord = none → x.baseOnly = false →
      x.lmsIndex < 2 ^ 20 →
      ∃ t, exec (.leaseStart counter { id := lease, keys := keys, form := form } signed) s = .next t ∧ { t with module := s.module } = s ∧
        t.module.security.leaseRecord = some (lease, keys))) ∧
  (∀ s t,
    let x := s.module.security
    let scrubs := fun (trigger : Nat) (nonce : BitVec 128) =>
      t.module.mstate = .scrubbing ∧ t.module.boot = 4 ∧
      t.module.security.scrub = (if x.scrub.pending then x.scrub else { pending := true, trigger := trigger, nonce := nonce }) ∧
      t.module.security.lmsIndex = min (2 ^ 20) (x.lmsIndex + 1) ∧ t.module.security.lease = none ∧ t.module.security.completion = none ∧
      t.waves = [] ∧ t.blocks = [] ∧ t.grids = [] ∧ t.parts = [] ∧ t.ws = [] ∧ t.dirty = [] ∧ t.clean = [] ∧ t.tlb = [] ∧
      (∀ a, t.byte a = if s.outsideModule a then s.byte a else 0) ∧
      ∀ cl, (t.cluster cl).imageA = some .blank ∧ (t.cluster cl).imageB = none ∧ (t.cluster cl).service = { image := 0, next := none }
    (∀ keys lease nonce signed, x.lease = some (lease, keys) → 3 ≤ s.module.boot → x.accepts signed .authority = true →
      exec (.leaseEnd lease nonce signed) s = .next t → scrubs 0 nonce) ∧
    (∀ lowNs, 1000 ≤ lowNs → s.module.boot ≠ 0 → exec (.recoveryResetPin lowNs) s = .next t → scrubs 1 s.module.nonce) ∧
    (∀ value : Word, value.getLsbD 0 = true → 2 ≤ s.module.boot → exec (.recoveryResetDvsec value) s = .next t → scrubs 1 s.module.nonce)) ∧
  (∀ s keys lease nonce signed, s.module.security.lease = some (lease, keys) → 3 ≤ s.module.boot →
    s.module.security.accepts signed .authority = true →
    ∃ t, exec (.leaseEnd lease nonce signed) s = .next t ∧ t.module.mstate = .scrubbing) ∧
  (∀ s lowNs, 1000 ≤ lowNs → s.module.boot ≠ 0 → ∃ t, exec (.recoveryResetPin lowNs) s = .next t ∧ t.module.mstate = .scrubbing) ∧
  (∀ s (value : Word), value.getLsbD 0 = true → 2 ≤ s.module.boot →
    ∃ t, exec (.recoveryResetDvsec value) s = .next t ∧ t.module.mstate = .scrubbing) ∧
  (∀ s, exec .functionLevelReset s = .next { s with module := { s.module with mailbox := [] } }) ∧
  (∀ s, s.module.mstate = .scrubbing → s.module.scrubEnd ≤ s.module.time →
    let x := s.scrubDue.module.security
    x.completion = some (completionOf s) ∧ x.scrub.pending = false ∧ x.lease = none ∧ s.scrubDue.module.mstate ≠ .scrubbing) ∧
  (∀ s b, s.module.boot = 0 → s.module.mstate ≠ .scrubbing → b.upTo = 8 →
    let x := ({ s.module.security with locked := false } : Security).readRecords b
    let good := fun (who : Signer) (i : Signed) => x.accepts i who = true ∧ x.least who ≤ i.version
    let base := fun (i : Signed) => if x.identity = none then good .thadin i else good .authority i ∨ good .thadin i
    let runtime := fun (i : Signed) => if x.identity ≠ none ∧ x.lease.isSome then good .customer i else base i
    let stranded := x.identity = none ∧ (∀ i, b.runtime = some i → ¬good .thadin i) ∧ ∀ i, x.baseImage = some i → ¬good .thadin i
    let runs := x.lastStatus = 0 ∧ ∃ i, b.runtime = some i ∧ runtime i
    let falls := ∃ i, x.baseImage = some i ∧ base i
    ∃ t, exec (.powerOn b) s = .next t ∧
      (b.romOk = false → t.module.boot = 1 ∧ t.module.recovery = true) ∧
      (b.romOk = true → stranded → t.module.boot = 3 ∧ t.module.recovery = true) ∧
      (b.romOk = true → ¬stranded → x.scrub.pending = true → t.module.mstate = .scrubbing ∧ t.module.security.scrub =
        { x.scrub with trigger := 2 }) ∧
      (b.romOk = true → ¬stranded → x.scrub.pending = false →
        (runs → t.module.boot = 8 ∧ t.module.security.locked = true ∧
          t.module.security.customerFirmware = (x.identity.isSome && x.lease.isSome)) ∧
        (¬runs → falls → t.module.boot = 8 ∧ t.module.security.locked = true ∧ t.module.security.customerFirmware = false) ∧
        (¬runs → ¬falls → t.module.boot = 6 ∧ t.module.recovery = true)))

/-! ### Every instruction -/

/-- R28, R30: an instruction whose guard passes no lane, and whose operands and guard raise nothing, only steps past. REORD
alone has no guard to pass (R230). The model's part: That operands are checked before is the model's reading (log 19), and so is
that an empty active checks no barrier membership (log 21). -/
def Obligations.NoLaneNoEffect : Prop :=
  ∀ (i : Instr) x s c, i.fields = some x → i ≠ .reord x → Meets s x c → c.active = [] →
    (usesGuard i = true → GuardSound c x) → (isPrivileged i = true → c.wave.handler = true) → (isCollective i = true → Whole c) →
    ∃ t, exec i s = .next t ∧ Past s t c x (onward c) c.wave

/-- R56, R80, R81: an instruction that computes lane by lane raises GRANT_RANGE for a register beyond the grant; else its first
operand that is empty in a lane of `active` raises EMPTY_READ with the operand's place, or has it wait, as its policy bit says;
else a destination that is not free has it wait. The model's part: That range comes before emptiness is the model's reading (log
19). -/
def Obligations.OperandsAtIssue : Prop :=
  ∀ (i : Instr) x h s c, laneShape i = some (x, h) → s.issue? x = some c → c.active ≠ [] →
    let srcs := h.srcs x
    let beyond := beyondGrant c.wave x.d h.d || srcs.any (fun r => beyondGrant c.wave r.op r.regs)
    let full := fun (r : Src) => c.active.all (fun l => (readOp s c r.op r.regs l).full)
    (beyond = true → c.wave.handler = false → c.part.xlate.hsize ≠ 0 → ∃ t, exec i s = .next t ∧ Entered s t c 0x05 0 0 c.pc) ∧
    (∀ pre r post, beyond = false → srcs = pre ++ r :: post → pre.all full = true → full r = false →
      (r.trap = false → exec i s = .next s) ∧
      (r.trap = true → c.wave.handler = false → c.part.xlate.hsize ≠ 0 →
        ∃ t, exec i s = .next t ∧ Entered s t c 0x03 (BitVec.ofNat 32 r.place) 0 c.pc)) ∧
    (beyond = false → srcs.all full = true → destBusy c x.d h.d = true → exec i s = .next s)

/-- R31, R170, R181, R377 to R381: where a precise fault goes. A privileged instruction at user level raises PRIV, a word that
is no instruction ILLEGAL with its subcode, the step past the last instruction BAD_TARGET; a fault at handler level kills with
NESTED, one without a handler and a split collective kill with their own cause. The model's part: That the level is checked on
MAJOR alone is the model's reading (log 20), and so is that a group with an empty active at an undeclared barrier splits no
collective (log 21). -/
def Obligations.PreciseFaults : Prop :=
  (∀ (i : Instr) x s c, isPrivileged i = true → i.fields = some x → s.issue? x = some c → c.wave.handler = false → c.part.xlate.hsize ≠ 0 →
    ∃ t, exec i s = .next t ∧ Entered s t c 0x02 0 0 c.pc) ∧
  (∀ s x c, s.issue? x = some c → c.active ≠ [] → Readable s c [srcA x 1] .zero 1 → Sound s c [srcA x 1] →
    (c.wave.handler = true → ∃ t, exec (.trap x) s = .next t ∧ Killed s t c 0x1E 0x19 (maskOf c.active) 0 0x19) ∧
    (c.wave.handler = false → c.part.xlate.hsize = 0 →
      ∃ t, exec (.trap x) s = .next t ∧ Killed s t c 0x19 (bits32 s c x.a 0) (maskOf c.active) 0 0)) ∧
  (∀ s x c, s.issue? x = some c → c.wave.handler = false → c.active = [] ∨ barKey x.a = 0 ∨ declared c (barKey x.a) →
    c.group.length = c.wave.presentLanes.length → (∃ l ∈ c.wave.presentLanes, (c.wave.lane l).pc ≠ c.pc) →
    ∃ t, exec (.bars x) s = .next t ∧ Killed s t c 0x0E (BitVec.ofNat 32 c.pc) (maskOf c.active) 0 0) ∧
  (∀ s x c, s.issue? x = some c → c.codeSize ≤ c.pc + 12 → c.wave.handler = false → c.part.xlate.hsize ≠ 0 →
    ∃ t w, exec (.nop x) s = .next t ∧ t.wave? c.wave.uid = some w ∧ w.handler = true ∧ (∀ l ∈ c.group, (w.lane l).pc = 0) ∧
      w.trap = { c.wave.trap with tcause := 0x0B, tdetail := BitVec.ofNat 32 (c.pc + 12), toff := BitVec.ofNat 32 c.pc,
                                  tlanes := maskOf c.active, taddr := 0, rpc := BitVec.ofNat 32 (c.pc + 12) }) ∧
  (∀ s u rest c g bs s1,
    let s2 := { s1 with issuing := u }
    let s3 := s2.touchCode c
    let word := wordOfBytes bs
    s.agenda = .issue u :: rest → ({ s with agenda := rest } : State).endYield u = s1 → s2.headIssue? = some c → s2.mayIssue c = true →
    c.wave.backError = false → fetchBytes s2 c = .ok bs → s3.issue? (wordGuard word) = some g → c.wave.handler = false →
    c.part.xlate.hsize ≠ 0 →
    (privilegedWord word = true → ∃ t, step s = .next (s1.countIssue (s1.noteWrites t) u).rejoinAll ∧ Entered s3 t g 0x02 0 0 c.pc) ∧
    (∀ subcode, privilegedWord word = false → decodeWord word = .error subcode →
      ∃ t, step s = .next (s1.countIssue (s1.noteWrites t) u).rejoinAll ∧ Entered s3 t g 0x01 (BitVec.ofNat 32 subcode) 0 c.pc))

/-- R28, R31, R169, R389: when the bytes at the head group's counter decode to an instruction that its level may run, a step
that lets the wave issue is `exec` of that instruction; what the step adds is the agenda's head, a YIELD that ends, the name of
the wave that issues, the pages that the fetch used, the dirty granules with the wait for the backlog, a collective that the
instruction gathers, and the queues that join the race. A step that the agenda gives to an event is `exec` of the event, one
that it gives to time passes it (log 1). The model's part: The agenda is the model's choice (log 1), and so is which state
shares a granule (log 11). -/
def Obligations.StepRunsTheInstruction : Prop :=
  (∀ s u rest c bs i s1 t,
    let s2 := { s1 with issuing := u }
    let s3 := s2.touchCode c
    s.agenda = .issue u :: rest → ({ s with agenda := rest } : State).endYield u = s1 → s2.headIssue? = some c → s2.mayIssue c = true →
    c.wave.backError = false → fetchBytes s2 c = .ok bs → decodeWord (wordOfBytes bs) = .ok i → (privilegedWord (wordOfBytes bs) = true → c.wave.handler = true) →
    exec i s3 = .next t →
    let v := s1.countIssue (s3.underBacklog t c.block.cluster) u
    (s1.gathered u = true ∨ v.gathered u = false → step s = .next v.rejoinAll) ∧
    (s1.gathered u = false → v.gathered u = true → ∀ w, v.collect u = .next w → step s = .next w.rejoinAll)) ∧
  (∀ s i rest t, s.agenda = .event i :: rest → i.isEvent = true → exec i { s with agenda := rest } = .next t →
    step s = .next (({ s with agenda := rest } : State).noteWrites t).rejoinAll) ∧
  (∀ s ns cycles rest, s.agenda = .tick ns cycles :: rest → step s = .next (({ s with agenda := rest } : State).pass ns cycles).rejoinAll) ∧
  (∀ s u rest, s.agenda = .upset u :: rest → step s = .next (({ s with agenda := rest } : State).upset u).rejoinAll)

/-- R169 to R181: decoding the word of a well-formed instruction gives the instruction again, and a word that decodes is the
word of its instruction, which is well-formed: no bit of an encoding is dropped. -/
def Obligations.RoundTrip : Prop :=
  (∀ i : Instr, i.wf = true → i.isEvent = false → decodeWord (encode i) = .ok i ∧ wordOfBytes (encodeBytes i) = encode i) ∧
  (∀ w i, decodeWord w = .ok i → encode i = w ∧ i.wf = true ∧ i.isEvent = false)

/-- R176, R178: in a word that decodes, a field that the instruction does not use holds ZERO, MINOR is 0 where MAJOR has no
minor forms, and a policy bit stands only for a source field that names a V or an S register. -/
def Obligations.UnusedFieldsAndPolicyBits : Prop :=
  ∀ w i op x, decodeWord w = .ok i → i.op = some op → i.fields = some x →
    let f := formOf op
    let imm := x.d.isImm32 || x.a.isImm32 || x.b.isImm32
    (f.d = [.zero] → w.extractLsb' 70 10 = 0x3E0) ∧ (f.a = [.zero] → w.extractLsb' 60 10 = 0x3E0) ∧
    (f.b = [.zero] → w.extractLsb' 50 10 = 0x3E0) ∧ (f.c = [.zero] → imm = false → w.extractLsb' 18 10 = 0x3E0) ∧
    ((∀ n, n < 16 → n ≠ 0 → instrOf (majorOf w) n = none) → bitsAt w 84 4 = 0) ∧
    (w.getLsbD 17 = true → (∃ n, x.a = .v n) ∨ ∃ n, x.a = .s n) ∧ (w.getLsbD 16 = true → (∃ n, x.b = .v n) ∨ ∃ n, x.b = .s n) ∧
    (w.getLsbD 15 = true → imm = false ∧ ((∃ n, x.c = .v n) ∨ ∃ n, x.c = .s n))

/-- R169: words that the manual writes out, one of each family, decode to the instructions that they stand for, and an altered
one to the subcode of its first failing check. -/
def Obligations.DecodingRight : Prop :=
  let x := guardOf false 7
  decodeWord 0x3009F83C0F80000001E00000#96 = .ok (.bra { guardOf true 1 with a := .imm32 0x78 }) ∧
  decodeWord 0x2007C098080000000F800000#96 = .ok (.icmp 0 { x with d := .p 2, a := .sp .laneid, b := .imm 0 }) ∧
  decodeWord 0x030741D0441800000F810000#96 = .ok (.iadd { x with d := .s 7, a := .s 4, b := .s 6, eb := true }) ∧
  decodeWord 0x70370080184000000F800000#96 = .ok (.lxchXor { x with d := .v 2, a := .v 1, b := .imm 16 }) ∧
  decodeWord 0x800702006F8000000F800000#96 = .ok (.ld { x with d := .v 8, a := .v 6 }) ∧
  decodeWord 0xA307F8202F8002800F800000#96 = .ok (.fence { x with a := .imm 2, order := .rel, scope := .gd }) ∧
  decodeWord 0xB007E0D10F8004000F800000#96 = .ok (.cpt { x with d := .t 3, a := .s 16, space := .sp }) ∧
  decodeWord 0xC007F810CF8000000F800000#96 = .ok (.mxa { x with a := .s 12 }) ∧
  decodeWord 0xD6C745201F8000000F800000#96 = .ok (.acqW 4 { x with d := .s 20, a := .imm 1 }) ∧
  decodeWord 0xF207F83E0F8000000F800000#96 = .ok (.eret x) ∧
  decodeWord 0x190741D0441800000F810000#96 = .error 1 ∧ decodeWord 0x030741D0441800000F810001#96 = .error 2

/-! ### The machine as a whole -/

/-- A step keeps memory in its one canonical form (log 3), whatever move it makes. The model's part: What an unwritten byte
reads as is the model's (log 3). -/
def Obligations.StepKeepsMemory : Prop := ∀ s t, s.MemOk → step s = .next t → t.MemOk

/-- R28, R377: no state stops the machine: every step goes on, since a fault is taken and an instruction that cannot pass stays
where it is. The model's part: The agenda that decides the move is the model's (log 1). -/
def Obligations.EveryStepGoesOn : Prop := ∀ s, Goes s

/-- R351 to R353, R358, R370, R393, R399, R408: the registers at reset, and those of a partition at its creation. The model's
part: That reset holds no wave, block, grid or partition is the model's (log 2), and so are the empty memory (log 3) and that no
lease is stored (log 9). -/
def Obligations.ResetState : Prop :=
  let m := State.reset.module
  State.reset.MemOk ∧ State.reset.waves = [] ∧ State.reset.blocks = [] ∧ State.reset.grids = [] ∧ State.reset.parts = [] ∧
  (∀ cl,
    let c := State.reset.cluster cl
    c.rbl = 64 ∧ c.gck.written = { reg := 4064, spm := 512, acc := 256, mxe := 8, tag := 256 } ∧ c.gck.limit = c.gck.written ∧
    c.volt.rid = 0 ∧ c.volt.mv = 600 ∧ c.volt.drid = 0 ∧ c.volt.out = .done ∧ min c.volt.noon c.volt.thermal = 780) ∧
  m.pkon = false ∧ m.allow = 1000 ∧ m.activity = { wb := 64, sc := 4096, pw := 2048, sv := 4000, db := 256 } ∧
  (∀ die, (Sparse.get .start m.thermal die).step = 0) ∧ m.lock = false ∧ m.offs = 0 ∧
  (∀ n, Sparse.get .start m.errors n = { corr := 0, unc := 0 }) ∧ m.boot = 0 ∧ m.mstate = .idle ∧ m.nonce = 0 ∧ m.security.lease = none ∧
  ∀ id start domains wssz arena time,
    let p := Part.create id start domains wssz arena time
    p.budget = { clus := domains * 8, tok := 0x01FFFFFF, sus := 0, req := 0, isOpen := true, tight := 0, pused := 0, hused := 0, peak := 0,
                 throttled := false } ∧
    p.xlate = { ptroot := 0, hbase := 0, hsize := 0, pvbase := 0, save := 0, frbase := 0, fridx := 0 } ∧
    time ≤ p.epoch ∧ p.epoch < time + 64000 ∧ p.epoch % 64000 = 0 ∧ (∀ n, p.timeline n = 0) ∧
    ∀ slot, (p.queue slot).wridx = 0 ∧ (p.queue slot).rdidx = 0 ∧ (p.queue slot).flag = .ok

end
end

