-- ==== Sys2Proof/Laws/Sparse.lean ====
section
/-! SUPPORT. Laws of the sparse maps: what a read gives after a write, and that every operation keeps the canonical form. -/

namespace Sys2Proof.Sparse

variable {α : Type}

theorem get_erase (d : α) (m : Sparse α) (k j : Nat) : get d (erase m k) j = if j = k then d else get d m j := by
  induction m with
  | nil => simp [erase, get]
  | cons e t ih =>
    obtain ⟨a, v⟩ := e
    by_cases h : a = k
    · subst h
      simp only [erase, get, if_true, ih]
      by_cases hj : j = a
      · simp [hj]
      · simp [hj, Ne.symm hj]
    · simp only [erase, get, h, if_false, ih]
      by_cases ha : a = j
      · subst ha; simp [h]
      · simp [ha]

theorem get_insert_self (d : α) (m : Sparse α) (k : Nat) (v : α) (h : ∀ e ∈ m, e.1 ≠ k) : get d (insert m k v) k = v := by
  induction m with
  | nil => simp [insert, get]
  | cons e t ih =>
    obtain ⟨a, w⟩ := e
    have ha : a ≠ k := h (a, w) (by simp)
    by_cases hk : k < a
    · simp [insert, hk, get]
    · simp only [insert, hk, if_false, get, ha]
      exact ih (fun e he => h e (by simp [he]))

theorem get_insert_other (d : α) (m : Sparse α) (k j : Nat) (v : α) (hj : j ≠ k) : get d (insert m k v) j = get d m j := by
  induction m with
  | nil => simp [insert, get, Ne.symm hj]
  | cons e t ih =>
    obtain ⟨a, w⟩ := e
    by_cases hk : k < a
    · simp [insert, hk, get, Ne.symm hj]
    · simp [insert, hk, get, ih]

theorem erase_keys (m : Sparse α) (k : Nat) : ∀ e ∈ erase m k, e.1 ≠ k := by
  induction m with
  | nil => simp [erase]
  | cons e t ih =>
    obtain ⟨a, v⟩ := e
    by_cases h : a = k
    · simpa [erase, h] using ih
    · intro x hx
      simp only [erase, h, if_false, List.mem_cons] at hx
      rcases hx with rfl | hx
      · exact h
      · exact ih x hx

/-- A read after a write: the value written at the same key, the old value at every other. -/
theorem get_set [DecidableEq α] (d : α) (m : Sparse α) (k j : Nat) (v : α) :
    get d (set d m k v) j = if j = k then v else get d m j := by
  unfold set
  by_cases hv : v = d
  · subst hv; simp [get_erase]
  · simp only [hv, if_false]
    by_cases hj : j = k
    · subst hj; simp [get_insert_self d (erase m j) j v (erase_keys m j)]
    · simp [hj, get_insert_other d _ k j v hj, get_erase]

theorem mem_erase {m : Sparse α} {k : Nat} {e : Nat × α} (h : e ∈ erase m k) : e ∈ m := by
  induction m with
  | nil => simp [erase] at h
  | cons x t ih =>
    obtain ⟨a, v⟩ := x
    by_cases hk : a = k
    · simp only [erase, hk, if_true] at h; exact List.mem_cons_of_mem _ (ih h)
    · simp only [erase, hk, if_false, List.mem_cons] at h
      rcases h with rfl | h
      · simp
      · exact List.mem_cons_of_mem _ (ih h)

theorem mem_insert {m : Sparse α} {k : Nat} {v : α} {e : Nat × α} (h : e ∈ insert m k v) : e = (k, v) ∨ e ∈ m := by
  induction m with
  | nil => simpa [insert] using h
  | cons x t ih =>
    obtain ⟨a, w⟩ := x
    by_cases hk : k < a
    · simpa [insert, hk] using h
    · simp only [insert, hk, if_false, List.mem_cons] at h
      rcases h with rfl | h
      · simp
      · rcases ih h with h | h
        · exact .inl h
        · exact .inr (List.mem_cons_of_mem _ h)

theorem wf_iff [DecidableEq α] {d : α} {m : Sparse α} : isWf d m = true ↔ m.Pairwise (fun a b => a.1 < b.1) ∧ ∀ e ∈ m, e.2 ≠ d := by
  simp only [isWf, Bool.and_eq_true, decide_eq_true_eq]

theorem wf_nil [DecidableEq α] (d : α) : isWf d ([] : Sparse α) = true := wf_iff.2 ⟨List.Pairwise.nil, by simp⟩

theorem wf_filter [DecidableEq α] {d : α} {m : Sparse α} (h : isWf d m = true) (p : Nat × α → Bool) : isWf d (m.filter p) = true :=
  wf_iff.2 ⟨(wf_iff.1 h).1.filter _, fun e he => (wf_iff.1 h).2 e (List.mem_filter.1 he).1⟩

theorem wf_erase [DecidableEq α] {d : α} {m : Sparse α} (h : isWf d m = true) (k : Nat) : isWf d (erase m k) = true := by
  refine wf_iff.2 ⟨?_, fun e he => (wf_iff.1 h).2 e (mem_erase he)⟩
  have hp := (wf_iff.1 h).1
  clear h
  induction m with
  | nil => exact List.Pairwise.nil
  | cons x t ih =>
    obtain ⟨a, v⟩ := x
    rw [List.pairwise_cons] at hp
    by_cases hk : a = k
    · simpa [erase, hk] using ih hp.2
    · simp only [erase, hk, if_false, List.pairwise_cons]
      exact ⟨fun e he => hp.1 e (mem_erase he), ih hp.2⟩

theorem pairwise_insert {m : Sparse α} {k : Nat} {v : α} (hp : m.Pairwise (fun a b => a.1 < b.1)) (hk : ∀ e ∈ m, e.1 ≠ k) :
    (insert m k v).Pairwise (fun a b => a.1 < b.1) := by
  induction m with
  | nil => simp [insert]
  | cons x t ih =>
    obtain ⟨a, w⟩ := x
    have hx := List.pairwise_cons.1 hp
    by_cases hlt : k < a
    · simp only [insert, hlt, if_true]
      refine List.pairwise_cons.2 ⟨fun e he => ?_, hp⟩
      rcases List.mem_cons.1 he with rfl | he
      · exact hlt
      · exact Nat.lt_trans hlt (hx.1 e he)
    · simp only [insert, hlt, if_false]
      refine List.pairwise_cons.2 ⟨fun e he => ?_, ih hx.2 (fun e he => hk e (List.mem_cons_of_mem _ he))⟩
      rcases mem_insert he with rfl | he
      · have := hk (a, w) (by simp)
        simp only at this ⊢
        omega
      · exact hx.1 e he

/-- Every write keeps the canonical form. -/
theorem wf_set [DecidableEq α] {d : α} {m : Sparse α} (h : isWf d m = true) (k : Nat) (v : α) : isWf d (set d m k v) = true := by
  unfold set
  by_cases hv : v = d
  · simpa [hv] using wf_erase h k
  · simp only [hv, if_false]
    have he := wf_iff.1 (wf_erase h k)
    refine wf_iff.2 ⟨pairwise_insert he.1 (erase_keys m k), fun e hx => ?_⟩
    rcases mem_insert hx with rfl | hx
    · exact hv
    · exact he.2 e hx

end Sys2Proof.Sparse
end

