-- ==== Sys2Proof/Laws/State.lean ====
section
/-! SUPPORT. What every update of the state leaves alone: one lemma for each field that an update does not write, so that no
later proof unfolds a record update. -/

namespace Sys2Proof.Machine.State

variable (s : State)

/-! ### setWave -/

@[simp] theorem setWave_blocks (w : Wave) : (s.setWave w).blocks = s.blocks := rfl
@[simp] theorem setWave_grids (w : Wave) : (s.setWave w).grids = s.grids := rfl
@[simp] theorem setWave_parts (w : Wave) : (s.setWave w).parts = s.parts := rfl
@[simp] theorem setWave_clusters (w : Wave) : (s.setWave w).clusters = s.clusters := rfl
@[simp] theorem setWave_mem (w : Wave) : (s.setWave w).mem = s.mem := rfl
@[simp] theorem setWave_bad (w : Wave) : (s.setWave w).bad = s.bad := rfl
@[simp] theorem setWave_sramBad (w : Wave) : (s.setWave w).sramBad = s.sramBad := rfl
@[simp] theorem setWave_l1Bad (w : Wave) : (s.setWave w).l1Bad = s.l1Bad := rfl
@[simp] theorem setWave_lost (w : Wave) : (s.setWave w).lost = s.lost := rfl
@[simp] theorem setWave_ws (w : Wave) : (s.setWave w).ws = s.ws := rfl
@[simp] theorem setWave_wsBad (w : Wave) : (s.setWave w).wsBad = s.wsBad := rfl
@[simp] theorem setWave_dirty (w : Wave) : (s.setWave w).dirty = s.dirty := rfl
@[simp] theorem setWave_clean (w : Wave) : (s.setWave w).clean = s.clean := rfl
@[simp] theorem setWave_homeMarks (w : Wave) : (s.setWave w).homeMarks = s.homeMarks := rfl
@[simp] theorem setWave_requests (w : Wave) : (s.setWave w).requests = s.requests := rfl
@[simp] theorem setWave_copies (w : Wave) : (s.setWave w).copies = s.copies := rfl
@[simp] theorem setWave_tlb (w : Wave) : (s.setWave w).tlb = s.tlb := rfl
@[simp] theorem setWave_faults (w : Wave) : (s.setWave w).faults = s.faults := rfl
@[simp] theorem setWave_events (w : Wave) : (s.setWave w).events = s.events := rfl
@[simp] theorem setWave_module (w : Wave) : (s.setWave w).module = s.module := rfl
@[simp] theorem setWave_agenda (w : Wave) : (s.setWave w).agenda = s.agenda := rfl
@[simp] theorem setWave_issuing (w : Wave) : (s.setWave w).issuing = s.issuing := rfl
@[simp] theorem setWave_fresh (w : Wave) : (s.setWave w).fresh = s.fresh := rfl
@[simp] theorem setWave_draws (w : Wave) : (s.setWave w).draws = s.draws := rfl
@[simp] theorem setWave_turn (w : Wave) : (s.setWave w).turn = s.turn := rfl

/-! ### setBlock -/

@[simp] theorem setBlock_waves (b : Block) : (s.setBlock b).waves = s.waves := rfl
@[simp] theorem setBlock_grids (b : Block) : (s.setBlock b).grids = s.grids := rfl
@[simp] theorem setBlock_parts (b : Block) : (s.setBlock b).parts = s.parts := rfl
@[simp] theorem setBlock_clusters (b : Block) : (s.setBlock b).clusters = s.clusters := rfl
@[simp] theorem setBlock_mem (b : Block) : (s.setBlock b).mem = s.mem := rfl
@[simp] theorem setBlock_bad (b : Block) : (s.setBlock b).bad = s.bad := rfl
@[simp] theorem setBlock_sramBad (b : Block) : (s.setBlock b).sramBad = s.sramBad := rfl
@[simp] theorem setBlock_l1Bad (b : Block) : (s.setBlock b).l1Bad = s.l1Bad := rfl
@[simp] theorem setBlock_lost (b : Block) : (s.setBlock b).lost = s.lost := rfl
@[simp] theorem setBlock_ws (b : Block) : (s.setBlock b).ws = s.ws := rfl
@[simp] theorem setBlock_wsBad (b : Block) : (s.setBlock b).wsBad = s.wsBad := rfl
@[simp] theorem setBlock_dirty (b : Block) : (s.setBlock b).dirty = s.dirty := rfl
@[simp] theorem setBlock_clean (b : Block) : (s.setBlock b).clean = s.clean := rfl
@[simp] theorem setBlock_homeMarks (b : Block) : (s.setBlock b).homeMarks = s.homeMarks := rfl
@[simp] theorem setBlock_requests (b : Block) : (s.setBlock b).requests = s.requests := rfl
@[simp] theorem setBlock_copies (b : Block) : (s.setBlock b).copies = s.copies := rfl
@[simp] theorem setBlock_tlb (b : Block) : (s.setBlock b).tlb = s.tlb := rfl
@[simp] theorem setBlock_faults (b : Block) : (s.setBlock b).faults = s.faults := rfl
@[simp] theorem setBlock_events (b : Block) : (s.setBlock b).events = s.events := rfl
@[simp] theorem setBlock_module (b : Block) : (s.setBlock b).module = s.module := rfl
@[simp] theorem setBlock_agenda (b : Block) : (s.setBlock b).agenda = s.agenda := rfl
@[simp] theorem setBlock_issuing (b : Block) : (s.setBlock b).issuing = s.issuing := rfl
@[simp] theorem setBlock_fresh (b : Block) : (s.setBlock b).fresh = s.fresh := rfl
@[simp] theorem setBlock_draws (b : Block) : (s.setBlock b).draws = s.draws := rfl
@[simp] theorem setBlock_turn (b : Block) : (s.setBlock b).turn = s.turn := rfl

/-! ### setGrid -/

@[simp] theorem setGrid_waves (g : Grid) : (s.setGrid g).waves = s.waves := rfl
@[simp] theorem setGrid_blocks (g : Grid) : (s.setGrid g).blocks = s.blocks := rfl
@[simp] theorem setGrid_parts (g : Grid) : (s.setGrid g).parts = s.parts := rfl
@[simp] theorem setGrid_clusters (g : Grid) : (s.setGrid g).clusters = s.clusters := rfl
@[simp] theorem setGrid_mem (g : Grid) : (s.setGrid g).mem = s.mem := rfl
@[simp] theorem setGrid_bad (g : Grid) : (s.setGrid g).bad = s.bad := rfl
@[simp] theorem setGrid_sramBad (g : Grid) : (s.setGrid g).sramBad = s.sramBad := rfl
@[simp] theorem setGrid_l1Bad (g : Grid) : (s.setGrid g).l1Bad = s.l1Bad := rfl
@[simp] theorem setGrid_lost (g : Grid) : (s.setGrid g).lost = s.lost := rfl
@[simp] theorem setGrid_ws (g : Grid) : (s.setGrid g).ws = s.ws := rfl
@[simp] theorem setGrid_wsBad (g : Grid) : (s.setGrid g).wsBad = s.wsBad := rfl
@[simp] theorem setGrid_dirty (g : Grid) : (s.setGrid g).dirty = s.dirty := rfl
@[simp] theorem setGrid_clean (g : Grid) : (s.setGrid g).clean = s.clean := rfl
@[simp] theorem setGrid_homeMarks (g : Grid) : (s.setGrid g).homeMarks = s.homeMarks := rfl
@[simp] theorem setGrid_requests (g : Grid) : (s.setGrid g).requests = s.requests := rfl
@[simp] theorem setGrid_copies (g : Grid) : (s.setGrid g).copies = s.copies := rfl
@[simp] theorem setGrid_tlb (g : Grid) : (s.setGrid g).tlb = s.tlb := rfl
@[simp] theorem setGrid_faults (g : Grid) : (s.setGrid g).faults = s.faults := rfl
@[simp] theorem setGrid_events (g : Grid) : (s.setGrid g).events = s.events := rfl
@[simp] theorem setGrid_module (g : Grid) : (s.setGrid g).module = s.module := rfl
@[simp] theorem setGrid_agenda (g : Grid) : (s.setGrid g).agenda = s.agenda := rfl
@[simp] theorem setGrid_issuing (g : Grid) : (s.setGrid g).issuing = s.issuing := rfl
@[simp] theorem setGrid_fresh (g : Grid) : (s.setGrid g).fresh = s.fresh := rfl
@[simp] theorem setGrid_draws (g : Grid) : (s.setGrid g).draws = s.draws := rfl
@[simp] theorem setGrid_turn (g : Grid) : (s.setGrid g).turn = s.turn := rfl

/-! ### setPart -/

@[simp] theorem setPart_waves (p : Part) : (s.setPart p).waves = s.waves := rfl
@[simp] theorem setPart_blocks (p : Part) : (s.setPart p).blocks = s.blocks := rfl
@[simp] theorem setPart_grids (p : Part) : (s.setPart p).grids = s.grids := rfl
@[simp] theorem setPart_clusters (p : Part) : (s.setPart p).clusters = s.clusters := rfl
@[simp] theorem setPart_mem (p : Part) : (s.setPart p).mem = s.mem := rfl
@[simp] theorem setPart_bad (p : Part) : (s.setPart p).bad = s.bad := rfl
@[simp] theorem setPart_sramBad (p : Part) : (s.setPart p).sramBad = s.sramBad := rfl
@[simp] theorem setPart_l1Bad (p : Part) : (s.setPart p).l1Bad = s.l1Bad := rfl
@[simp] theorem setPart_lost (p : Part) : (s.setPart p).lost = s.lost := rfl
@[simp] theorem setPart_ws (p : Part) : (s.setPart p).ws = s.ws := rfl
@[simp] theorem setPart_wsBad (p : Part) : (s.setPart p).wsBad = s.wsBad := rfl
@[simp] theorem setPart_dirty (p : Part) : (s.setPart p).dirty = s.dirty := rfl
@[simp] theorem setPart_clean (p : Part) : (s.setPart p).clean = s.clean := rfl
@[simp] theorem setPart_homeMarks (p : Part) : (s.setPart p).homeMarks = s.homeMarks := rfl
@[simp] theorem setPart_requests (p : Part) : (s.setPart p).requests = s.requests := rfl
@[simp] theorem setPart_copies (p : Part) : (s.setPart p).copies = s.copies := rfl
@[simp] theorem setPart_tlb (p : Part) : (s.setPart p).tlb = s.tlb := rfl
@[simp] theorem setPart_faults (p : Part) : (s.setPart p).faults = s.faults := rfl
@[simp] theorem setPart_events (p : Part) : (s.setPart p).events = s.events := rfl
@[simp] theorem setPart_module (p : Part) : (s.setPart p).module = s.module := rfl
@[simp] theorem setPart_agenda (p : Part) : (s.setPart p).agenda = s.agenda := rfl
@[simp] theorem setPart_issuing (p : Part) : (s.setPart p).issuing = s.issuing := rfl
@[simp] theorem setPart_fresh (p : Part) : (s.setPart p).fresh = s.fresh := rfl
@[simp] theorem setPart_draws (p : Part) : (s.setPart p).draws = s.draws := rfl
@[simp] theorem setPart_turn (p : Part) : (s.setPart p).turn = s.turn := rfl

/-! ### setCopy -/

@[simp] theorem setCopy_waves (k : Copy) : (s.setCopy k).waves = s.waves := rfl
@[simp] theorem setCopy_blocks (k : Copy) : (s.setCopy k).blocks = s.blocks := rfl
@[simp] theorem setCopy_grids (k : Copy) : (s.setCopy k).grids = s.grids := rfl
@[simp] theorem setCopy_parts (k : Copy) : (s.setCopy k).parts = s.parts := rfl
@[simp] theorem setCopy_clusters (k : Copy) : (s.setCopy k).clusters = s.clusters := rfl
@[simp] theorem setCopy_mem (k : Copy) : (s.setCopy k).mem = s.mem := rfl
@[simp] theorem setCopy_bad (k : Copy) : (s.setCopy k).bad = s.bad := rfl
@[simp] theorem setCopy_sramBad (k : Copy) : (s.setCopy k).sramBad = s.sramBad := rfl
@[simp] theorem setCopy_l1Bad (k : Copy) : (s.setCopy k).l1Bad = s.l1Bad := rfl
@[simp] theorem setCopy_lost (k : Copy) : (s.setCopy k).lost = s.lost := rfl
@[simp] theorem setCopy_ws (k : Copy) : (s.setCopy k).ws = s.ws := rfl
@[simp] theorem setCopy_wsBad (k : Copy) : (s.setCopy k).wsBad = s.wsBad := rfl
@[simp] theorem setCopy_dirty (k : Copy) : (s.setCopy k).dirty = s.dirty := rfl
@[simp] theorem setCopy_clean (k : Copy) : (s.setCopy k).clean = s.clean := rfl
@[simp] theorem setCopy_homeMarks (k : Copy) : (s.setCopy k).homeMarks = s.homeMarks := rfl
@[simp] theorem setCopy_requests (k : Copy) : (s.setCopy k).requests = s.requests := rfl
@[simp] theorem setCopy_tlb (k : Copy) : (s.setCopy k).tlb = s.tlb := rfl
@[simp] theorem setCopy_faults (k : Copy) : (s.setCopy k).faults = s.faults := rfl
@[simp] theorem setCopy_events (k : Copy) : (s.setCopy k).events = s.events := rfl
@[simp] theorem setCopy_module (k : Copy) : (s.setCopy k).module = s.module := rfl
@[simp] theorem setCopy_agenda (k : Copy) : (s.setCopy k).agenda = s.agenda := rfl
@[simp] theorem setCopy_issuing (k : Copy) : (s.setCopy k).issuing = s.issuing := rfl
@[simp] theorem setCopy_fresh (k : Copy) : (s.setCopy k).fresh = s.fresh := rfl
@[simp] theorem setCopy_draws (k : Copy) : (s.setCopy k).draws = s.draws := rfl
@[simp] theorem setCopy_turn (k : Copy) : (s.setCopy k).turn = s.turn := rfl

/-! ### setModule -/

@[simp] theorem setModule_waves (m : Module) : (s.setModule m).waves = s.waves := rfl
@[simp] theorem setModule_blocks (m : Module) : (s.setModule m).blocks = s.blocks := rfl
@[simp] theorem setModule_grids (m : Module) : (s.setModule m).grids = s.grids := rfl
@[simp] theorem setModule_parts (m : Module) : (s.setModule m).parts = s.parts := rfl
@[simp] theorem setModule_clusters (m : Module) : (s.setModule m).clusters = s.clusters := rfl
@[simp] theorem setModule_mem (m : Module) : (s.setModule m).mem = s.mem := rfl
@[simp] theorem setModule_bad (m : Module) : (s.setModule m).bad = s.bad := rfl
@[simp] theorem setModule_sramBad (m : Module) : (s.setModule m).sramBad = s.sramBad := rfl
@[simp] theorem setModule_l1Bad (m : Module) : (s.setModule m).l1Bad = s.l1Bad := rfl
@[simp] theorem setModule_lost (m : Module) : (s.setModule m).lost = s.lost := rfl
@[simp] theorem setModule_ws (m : Module) : (s.setModule m).ws = s.ws := rfl
@[simp] theorem setModule_wsBad (m : Module) : (s.setModule m).wsBad = s.wsBad := rfl
@[simp] theorem setModule_dirty (m : Module) : (s.setModule m).dirty = s.dirty := rfl
@[simp] theorem setModule_clean (m : Module) : (s.setModule m).clean = s.clean := rfl
@[simp] theorem setModule_homeMarks (m : Module) : (s.setModule m).homeMarks = s.homeMarks := rfl
@[simp] theorem setModule_requests (m : Module) : (s.setModule m).requests = s.requests := rfl
@[simp] theorem setModule_copies (m : Module) : (s.setModule m).copies = s.copies := rfl
@[simp] theorem setModule_tlb (m : Module) : (s.setModule m).tlb = s.tlb := rfl
@[simp] theorem setModule_faults (m : Module) : (s.setModule m).faults = s.faults := rfl
@[simp] theorem setModule_events (m : Module) : (s.setModule m).events = s.events := rfl
@[simp] theorem setModule_agenda (m : Module) : (s.setModule m).agenda = s.agenda := rfl
@[simp] theorem setModule_issuing (m : Module) : (s.setModule m).issuing = s.issuing := rfl
@[simp] theorem setModule_fresh (m : Module) : (s.setModule m).fresh = s.fresh := rfl
@[simp] theorem setModule_draws (m : Module) : (s.setModule m).draws = s.draws := rfl
@[simp] theorem setModule_turn (m : Module) : (s.setModule m).turn = s.turn := rfl

/-! ### tell -/

@[simp] theorem tell_waves (e : CcEvent) : (s.tell e).waves = s.waves := rfl
@[simp] theorem tell_blocks (e : CcEvent) : (s.tell e).blocks = s.blocks := rfl
@[simp] theorem tell_grids (e : CcEvent) : (s.tell e).grids = s.grids := rfl
@[simp] theorem tell_parts (e : CcEvent) : (s.tell e).parts = s.parts := rfl
@[simp] theorem tell_clusters (e : CcEvent) : (s.tell e).clusters = s.clusters := rfl
@[simp] theorem tell_mem (e : CcEvent) : (s.tell e).mem = s.mem := rfl
@[simp] theorem tell_bad (e : CcEvent) : (s.tell e).bad = s.bad := rfl
@[simp] theorem tell_sramBad (e : CcEvent) : (s.tell e).sramBad = s.sramBad := rfl
@[simp] theorem tell_l1Bad (e : CcEvent) : (s.tell e).l1Bad = s.l1Bad := rfl
@[simp] theorem tell_lost (e : CcEvent) : (s.tell e).lost = s.lost := rfl
@[simp] theorem tell_ws (e : CcEvent) : (s.tell e).ws = s.ws := rfl
@[simp] theorem tell_wsBad (e : CcEvent) : (s.tell e).wsBad = s.wsBad := rfl
@[simp] theorem tell_dirty (e : CcEvent) : (s.tell e).dirty = s.dirty := rfl
@[simp] theorem tell_clean (e : CcEvent) : (s.tell e).clean = s.clean := rfl
@[simp] theorem tell_homeMarks (e : CcEvent) : (s.tell e).homeMarks = s.homeMarks := rfl
@[simp] theorem tell_requests (e : CcEvent) : (s.tell e).requests = s.requests := rfl
@[simp] theorem tell_copies (e : CcEvent) : (s.tell e).copies = s.copies := rfl
@[simp] theorem tell_tlb (e : CcEvent) : (s.tell e).tlb = s.tlb := rfl
@[simp] theorem tell_faults (e : CcEvent) : (s.tell e).faults = s.faults := rfl
@[simp] theorem tell_module (e : CcEvent) : (s.tell e).module = s.module := rfl
@[simp] theorem tell_agenda (e : CcEvent) : (s.tell e).agenda = s.agenda := rfl
@[simp] theorem tell_issuing (e : CcEvent) : (s.tell e).issuing = s.issuing := rfl
@[simp] theorem tell_fresh (e : CcEvent) : (s.tell e).fresh = s.fresh := rfl
@[simp] theorem tell_draws (e : CcEvent) : (s.tell e).draws = s.draws := rfl
@[simp] theorem tell_turn (e : CcEvent) : (s.tell e).turn = s.turn := rfl

/-! ### storeByte -/

@[simp] theorem storeByte_waves (a : Nat) (b : Byte) : (s.storeByte a b).waves = s.waves := rfl
@[simp] theorem storeByte_blocks (a : Nat) (b : Byte) : (s.storeByte a b).blocks = s.blocks := rfl
@[simp] theorem storeByte_grids (a : Nat) (b : Byte) : (s.storeByte a b).grids = s.grids := rfl
@[simp] theorem storeByte_parts (a : Nat) (b : Byte) : (s.storeByte a b).parts = s.parts := rfl
@[simp] theorem storeByte_clusters (a : Nat) (b : Byte) : (s.storeByte a b).clusters = s.clusters := rfl
@[simp] theorem storeByte_bad (a : Nat) (b : Byte) : (s.storeByte a b).bad = s.bad := rfl
@[simp] theorem storeByte_sramBad (a : Nat) (b : Byte) : (s.storeByte a b).sramBad = s.sramBad := rfl
@[simp] theorem storeByte_l1Bad (a : Nat) (b : Byte) : (s.storeByte a b).l1Bad = s.l1Bad := rfl
@[simp] theorem storeByte_lost (a : Nat) (b : Byte) : (s.storeByte a b).lost = s.lost := rfl
@[simp] theorem storeByte_ws (a : Nat) (b : Byte) : (s.storeByte a b).ws = s.ws := rfl
@[simp] theorem storeByte_wsBad (a : Nat) (b : Byte) : (s.storeByte a b).wsBad = s.wsBad := rfl
@[simp] theorem storeByte_dirty (a : Nat) (b : Byte) : (s.storeByte a b).dirty = s.dirty := rfl
@[simp] theorem storeByte_clean (a : Nat) (b : Byte) : (s.storeByte a b).clean = s.clean := rfl
@[simp] theorem storeByte_homeMarks (a : Nat) (b : Byte) : (s.storeByte a b).homeMarks = s.homeMarks := rfl
@[simp] theorem storeByte_requests (a : Nat) (b : Byte) : (s.storeByte a b).requests = s.requests := rfl
@[simp] theorem storeByte_copies (a : Nat) (b : Byte) : (s.storeByte a b).copies = s.copies := rfl
@[simp] theorem storeByte_tlb (a : Nat) (b : Byte) : (s.storeByte a b).tlb = s.tlb := rfl
@[simp] theorem storeByte_faults (a : Nat) (b : Byte) : (s.storeByte a b).faults = s.faults := rfl
@[simp] theorem storeByte_events (a : Nat) (b : Byte) : (s.storeByte a b).events = s.events := rfl
@[simp] theorem storeByte_module (a : Nat) (b : Byte) : (s.storeByte a b).module = s.module := rfl
@[simp] theorem storeByte_agenda (a : Nat) (b : Byte) : (s.storeByte a b).agenda = s.agenda := rfl
@[simp] theorem storeByte_issuing (a : Nat) (b : Byte) : (s.storeByte a b).issuing = s.issuing := rfl
@[simp] theorem storeByte_fresh (a : Nat) (b : Byte) : (s.storeByte a b).fresh = s.fresh := rfl
@[simp] theorem storeByte_draws (a : Nat) (b : Byte) : (s.storeByte a b).draws = s.draws := rfl
@[simp] theorem storeByte_turn (a : Nat) (b : Byte) : (s.storeByte a b).turn = s.turn := rfl

/-! ### setCluster -/

@[simp] theorem setCluster_waves (n : Nat) (c : Cluster) : (s.setCluster n c).waves = s.waves := rfl
@[simp] theorem setCluster_blocks (n : Nat) (c : Cluster) : (s.setCluster n c).blocks = s.blocks := rfl
@[simp] theorem setCluster_grids (n : Nat) (c : Cluster) : (s.setCluster n c).grids = s.grids := rfl
@[simp] theorem setCluster_parts (n : Nat) (c : Cluster) : (s.setCluster n c).parts = s.parts := rfl
@[simp] theorem setCluster_mem (n : Nat) (c : Cluster) : (s.setCluster n c).mem = s.mem := rfl
@[simp] theorem setCluster_bad (n : Nat) (c : Cluster) : (s.setCluster n c).bad = s.bad := rfl
@[simp] theorem setCluster_sramBad (n : Nat) (c : Cluster) : (s.setCluster n c).sramBad = s.sramBad := rfl
@[simp] theorem setCluster_l1Bad (n : Nat) (c : Cluster) : (s.setCluster n c).l1Bad = s.l1Bad := rfl
@[simp] theorem setCluster_lost (n : Nat) (c : Cluster) : (s.setCluster n c).lost = s.lost := rfl
@[simp] theorem setCluster_ws (n : Nat) (c : Cluster) : (s.setCluster n c).ws = s.ws := rfl
@[simp] theorem setCluster_wsBad (n : Nat) (c : Cluster) : (s.setCluster n c).wsBad = s.wsBad := rfl
@[simp] theorem setCluster_dirty (n : Nat) (c : Cluster) : (s.setCluster n c).dirty = s.dirty := rfl
@[simp] theorem setCluster_clean (n : Nat) (c : Cluster) : (s.setCluster n c).clean = s.clean := rfl
@[simp] theorem setCluster_homeMarks (n : Nat) (c : Cluster) : (s.setCluster n c).homeMarks = s.homeMarks := rfl
@[simp] theorem setCluster_requests (n : Nat) (c : Cluster) : (s.setCluster n c).requests = s.requests := rfl
@[simp] theorem setCluster_copies (n : Nat) (c : Cluster) : (s.setCluster n c).copies = s.copies := rfl
@[simp] theorem setCluster_tlb (n : Nat) (c : Cluster) : (s.setCluster n c).tlb = s.tlb := rfl
@[simp] theorem setCluster_faults (n : Nat) (c : Cluster) : (s.setCluster n c).faults = s.faults := rfl
@[simp] theorem setCluster_events (n : Nat) (c : Cluster) : (s.setCluster n c).events = s.events := rfl
@[simp] theorem setCluster_module (n : Nat) (c : Cluster) : (s.setCluster n c).module = s.module := rfl
@[simp] theorem setCluster_agenda (n : Nat) (c : Cluster) : (s.setCluster n c).agenda = s.agenda := rfl
@[simp] theorem setCluster_issuing (n : Nat) (c : Cluster) : (s.setCluster n c).issuing = s.issuing := rfl
@[simp] theorem setCluster_fresh (n : Nat) (c : Cluster) : (s.setCluster n c).fresh = s.fresh := rfl
@[simp] theorem setCluster_draws (n : Nat) (c : Cluster) : (s.setCluster n c).draws = s.draws := rfl
@[simp] theorem setCluster_turn (n : Nat) (c : Cluster) : (s.setCluster n c).turn = s.turn := rfl

/-! ### onCluster -/

@[simp] theorem onCluster_waves (n : Nat) (f : Cluster → Cluster) : (s.onCluster n f).waves = s.waves := rfl
@[simp] theorem onCluster_blocks (n : Nat) (f : Cluster → Cluster) : (s.onCluster n f).blocks = s.blocks := rfl
@[simp] theorem onCluster_grids (n : Nat) (f : Cluster → Cluster) : (s.onCluster n f).grids = s.grids := rfl
@[simp] theorem onCluster_parts (n : Nat) (f : Cluster → Cluster) : (s.onCluster n f).parts = s.parts := rfl
@[simp] theorem onCluster_mem (n : Nat) (f : Cluster → Cluster) : (s.onCluster n f).mem = s.mem := rfl
@[simp] theorem onCluster_bad (n : Nat) (f : Cluster → Cluster) : (s.onCluster n f).bad = s.bad := rfl
@[simp] theorem onCluster_sramBad (n : Nat) (f : Cluster → Cluster) : (s.onCluster n f).sramBad = s.sramBad := rfl
@[simp] theorem onCluster_l1Bad (n : Nat) (f : Cluster → Cluster) : (s.onCluster n f).l1Bad = s.l1Bad := rfl
@[simp] theorem onCluster_lost (n : Nat) (f : Cluster → Cluster) : (s.onCluster n f).lost = s.lost := rfl
@[simp] theorem onCluster_ws (n : Nat) (f : Cluster → Cluster) : (s.onCluster n f).ws = s.ws := rfl
@[simp] theorem onCluster_wsBad (n : Nat) (f : Cluster → Cluster) : (s.onCluster n f).wsBad = s.wsBad := rfl
@[simp] theorem onCluster_dirty (n : Nat) (f : Cluster → Cluster) : (s.onCluster n f).dirty = s.dirty := rfl
@[simp] theorem onCluster_clean (n : Nat) (f : Cluster → Cluster) : (s.onCluster n f).clean = s.clean := rfl
@[simp] theorem onCluster_homeMarks (n : Nat) (f : Cluster → Cluster) : (s.onCluster n f).homeMarks = s.homeMarks := rfl
@[simp] theorem onCluster_requests (n : Nat) (f : Cluster → Cluster) : (s.onCluster n f).requests = s.requests := rfl
@[simp] theorem onCluster_copies (n : Nat) (f : Cluster → Cluster) : (s.onCluster n f).copies = s.copies := rfl
@[simp] theorem onCluster_tlb (n : Nat) (f : Cluster → Cluster) : (s.onCluster n f).tlb = s.tlb := rfl
@[simp] theorem onCluster_faults (n : Nat) (f : Cluster → Cluster) : (s.onCluster n f).faults = s.faults := rfl
@[simp] theorem onCluster_events (n : Nat) (f : Cluster → Cluster) : (s.onCluster n f).events = s.events := rfl
@[simp] theorem onCluster_module (n : Nat) (f : Cluster → Cluster) : (s.onCluster n f).module = s.module := rfl
@[simp] theorem onCluster_agenda (n : Nat) (f : Cluster → Cluster) : (s.onCluster n f).agenda = s.agenda := rfl
@[simp] theorem onCluster_issuing (n : Nat) (f : Cluster → Cluster) : (s.onCluster n f).issuing = s.issuing := rfl
@[simp] theorem onCluster_fresh (n : Nat) (f : Cluster → Cluster) : (s.onCluster n f).fresh = s.fresh := rfl
@[simp] theorem onCluster_draws (n : Nat) (f : Cluster → Cluster) : (s.onCluster n f).draws = s.draws := rfl
@[simp] theorem onCluster_turn (n : Nat) (f : Cluster → Cluster) : (s.onCluster n f).turn = s.turn := rfl

/-! ### onWave -/

@[simp] theorem onWave_blocks (u : Nat) (f : Wave → Wave) : (s.onWave u f).blocks = s.blocks := by unfold onWave; split <;> rfl
@[simp] theorem onWave_grids (u : Nat) (f : Wave → Wave) : (s.onWave u f).grids = s.grids := by unfold onWave; split <;> rfl
@[simp] theorem onWave_parts (u : Nat) (f : Wave → Wave) : (s.onWave u f).parts = s.parts := by unfold onWave; split <;> rfl
@[simp] theorem onWave_clusters (u : Nat) (f : Wave → Wave) : (s.onWave u f).clusters = s.clusters := by unfold onWave; split <;> rfl
@[simp] theorem onWave_mem (u : Nat) (f : Wave → Wave) : (s.onWave u f).mem = s.mem := by unfold onWave; split <;> rfl
@[simp] theorem onWave_bad (u : Nat) (f : Wave → Wave) : (s.onWave u f).bad = s.bad := by unfold onWave; split <;> rfl
@[simp] theorem onWave_sramBad (u : Nat) (f : Wave → Wave) : (s.onWave u f).sramBad = s.sramBad := by unfold onWave; split <;> rfl
@[simp] theorem onWave_l1Bad (u : Nat) (f : Wave → Wave) : (s.onWave u f).l1Bad = s.l1Bad := by unfold onWave; split <;> rfl
@[simp] theorem onWave_lost (u : Nat) (f : Wave → Wave) : (s.onWave u f).lost = s.lost := by unfold onWave; split <;> rfl
@[simp] theorem onWave_ws (u : Nat) (f : Wave → Wave) : (s.onWave u f).ws = s.ws := by unfold onWave; split <;> rfl
@[simp] theorem onWave_wsBad (u : Nat) (f : Wave → Wave) : (s.onWave u f).wsBad = s.wsBad := by unfold onWave; split <;> rfl
@[simp] theorem onWave_dirty (u : Nat) (f : Wave → Wave) : (s.onWave u f).dirty = s.dirty := by unfold onWave; split <;> rfl
@[simp] theorem onWave_clean (u : Nat) (f : Wave → Wave) : (s.onWave u f).clean = s.clean := by unfold onWave; split <;> rfl
@[simp] theorem onWave_homeMarks (u : Nat) (f : Wave → Wave) : (s.onWave u f).homeMarks = s.homeMarks := by unfold onWave; split <;> rfl
@[simp] theorem onWave_requests (u : Nat) (f : Wave → Wave) : (s.onWave u f).requests = s.requests := by unfold onWave; split <;> rfl
@[simp] theorem onWave_copies (u : Nat) (f : Wave → Wave) : (s.onWave u f).copies = s.copies := by unfold onWave; split <;> rfl
@[simp] theorem onWave_tlb (u : Nat) (f : Wave → Wave) : (s.onWave u f).tlb = s.tlb := by unfold onWave; split <;> rfl
@[simp] theorem onWave_faults (u : Nat) (f : Wave → Wave) : (s.onWave u f).faults = s.faults := by unfold onWave; split <;> rfl
@[simp] theorem onWave_events (u : Nat) (f : Wave → Wave) : (s.onWave u f).events = s.events := by unfold onWave; split <;> rfl
@[simp] theorem onWave_module (u : Nat) (f : Wave → Wave) : (s.onWave u f).module = s.module := by unfold onWave; split <;> rfl
@[simp] theorem onWave_agenda (u : Nat) (f : Wave → Wave) : (s.onWave u f).agenda = s.agenda := by unfold onWave; split <;> rfl
@[simp] theorem onWave_issuing (u : Nat) (f : Wave → Wave) : (s.onWave u f).issuing = s.issuing := by unfold onWave; split <;> rfl
@[simp] theorem onWave_fresh (u : Nat) (f : Wave → Wave) : (s.onWave u f).fresh = s.fresh := by unfold onWave; split <;> rfl
@[simp] theorem onWave_draws (u : Nat) (f : Wave → Wave) : (s.onWave u f).draws = s.draws := by unfold onWave; split <;> rfl
@[simp] theorem onWave_turn (u : Nat) (f : Wave → Wave) : (s.onWave u f).turn = s.turn := by unfold onWave; split <;> rfl

/-! ### onBlock -/

@[simp] theorem onBlock_waves (u : Nat) (f : Block → Block) : (s.onBlock u f).waves = s.waves := by unfold onBlock; split <;> rfl
@[simp] theorem onBlock_grids (u : Nat) (f : Block → Block) : (s.onBlock u f).grids = s.grids := by unfold onBlock; split <;> rfl
@[simp] theorem onBlock_parts (u : Nat) (f : Block → Block) : (s.onBlock u f).parts = s.parts := by unfold onBlock; split <;> rfl
@[simp] theorem onBlock_clusters (u : Nat) (f : Block → Block) : (s.onBlock u f).clusters = s.clusters := by unfold onBlock; split <;> rfl
@[simp] theorem onBlock_mem (u : Nat) (f : Block → Block) : (s.onBlock u f).mem = s.mem := by unfold onBlock; split <;> rfl
@[simp] theorem onBlock_bad (u : Nat) (f : Block → Block) : (s.onBlock u f).bad = s.bad := by unfold onBlock; split <;> rfl
@[simp] theorem onBlock_sramBad (u : Nat) (f : Block → Block) : (s.onBlock u f).sramBad = s.sramBad := by unfold onBlock; split <;> rfl
@[simp] theorem onBlock_l1Bad (u : Nat) (f : Block → Block) : (s.onBlock u f).l1Bad = s.l1Bad := by unfold onBlock; split <;> rfl
@[simp] theorem onBlock_lost (u : Nat) (f : Block → Block) : (s.onBlock u f).lost = s.lost := by unfold onBlock; split <;> rfl
@[simp] theorem onBlock_ws (u : Nat) (f : Block → Block) : (s.onBlock u f).ws = s.ws := by unfold onBlock; split <;> rfl
@[simp] theorem onBlock_wsBad (u : Nat) (f : Block → Block) : (s.onBlock u f).wsBad = s.wsBad := by unfold onBlock; split <;> rfl
@[simp] theorem onBlock_dirty (u : Nat) (f : Block → Block) : (s.onBlock u f).dirty = s.dirty := by unfold onBlock; split <;> rfl
@[simp] theorem onBlock_clean (u : Nat) (f : Block → Block) : (s.onBlock u f).clean = s.clean := by unfold onBlock; split <;> rfl
@[simp] theorem onBlock_homeMarks (u : Nat) (f : Block → Block) : (s.onBlock u f).homeMarks = s.homeMarks := by unfold onBlock; split <;> rfl
@[simp] theorem onBlock_requests (u : Nat) (f : Block → Block) : (s.onBlock u f).requests = s.requests := by unfold onBlock; split <;> rfl
@[simp] theorem onBlock_copies (u : Nat) (f : Block → Block) : (s.onBlock u f).copies = s.copies := by unfold onBlock; split <;> rfl
@[simp] theorem onBlock_tlb (u : Nat) (f : Block → Block) : (s.onBlock u f).tlb = s.tlb := by unfold onBlock; split <;> rfl
@[simp] theorem onBlock_faults (u : Nat) (f : Block → Block) : (s.onBlock u f).faults = s.faults := by unfold onBlock; split <;> rfl
@[simp] theorem onBlock_events (u : Nat) (f : Block → Block) : (s.onBlock u f).events = s.events := by unfold onBlock; split <;> rfl
@[simp] theorem onBlock_module (u : Nat) (f : Block → Block) : (s.onBlock u f).module = s.module := by unfold onBlock; split <;> rfl
@[simp] theorem onBlock_agenda (u : Nat) (f : Block → Block) : (s.onBlock u f).agenda = s.agenda := by unfold onBlock; split <;> rfl
@[simp] theorem onBlock_issuing (u : Nat) (f : Block → Block) : (s.onBlock u f).issuing = s.issuing := by unfold onBlock; split <;> rfl
@[simp] theorem onBlock_fresh (u : Nat) (f : Block → Block) : (s.onBlock u f).fresh = s.fresh := by unfold onBlock; split <;> rfl
@[simp] theorem onBlock_draws (u : Nat) (f : Block → Block) : (s.onBlock u f).draws = s.draws := by unfold onBlock; split <;> rfl
@[simp] theorem onBlock_turn (u : Nat) (f : Block → Block) : (s.onBlock u f).turn = s.turn := by unfold onBlock; split <;> rfl

/-! ### onGrid -/

@[simp] theorem onGrid_waves (u : Nat) (f : Grid → Grid) : (s.onGrid u f).waves = s.waves := by unfold onGrid; split <;> rfl
@[simp] theorem onGrid_blocks (u : Nat) (f : Grid → Grid) : (s.onGrid u f).blocks = s.blocks := by unfold onGrid; split <;> rfl
@[simp] theorem onGrid_parts (u : Nat) (f : Grid → Grid) : (s.onGrid u f).parts = s.parts := by unfold onGrid; split <;> rfl
@[simp] theorem onGrid_clusters (u : Nat) (f : Grid → Grid) : (s.onGrid u f).clusters = s.clusters := by unfold onGrid; split <;> rfl
@[simp] theorem onGrid_mem (u : Nat) (f : Grid → Grid) : (s.onGrid u f).mem = s.mem := by unfold onGrid; split <;> rfl
@[simp] theorem onGrid_bad (u : Nat) (f : Grid → Grid) : (s.onGrid u f).bad = s.bad := by unfold onGrid; split <;> rfl
@[simp] theorem onGrid_sramBad (u : Nat) (f : Grid → Grid) : (s.onGrid u f).sramBad = s.sramBad := by unfold onGrid; split <;> rfl
@[simp] theorem onGrid_l1Bad (u : Nat) (f : Grid → Grid) : (s.onGrid u f).l1Bad = s.l1Bad := by unfold onGrid; split <;> rfl
@[simp] theorem onGrid_lost (u : Nat) (f : Grid → Grid) : (s.onGrid u f).lost = s.lost := by unfold onGrid; split <;> rfl
@[simp] theorem onGrid_ws (u : Nat) (f : Grid → Grid) : (s.onGrid u f).ws = s.ws := by unfold onGrid; split <;> rfl
@[simp] theorem onGrid_wsBad (u : Nat) (f : Grid → Grid) : (s.onGrid u f).wsBad = s.wsBad := by unfold onGrid; split <;> rfl
@[simp] theorem onGrid_dirty (u : Nat) (f : Grid → Grid) : (s.onGrid u f).dirty = s.dirty := by unfold onGrid; split <;> rfl
@[simp] theorem onGrid_clean (u : Nat) (f : Grid → Grid) : (s.onGrid u f).clean = s.clean := by unfold onGrid; split <;> rfl
@[simp] theorem onGrid_homeMarks (u : Nat) (f : Grid → Grid) : (s.onGrid u f).homeMarks = s.homeMarks := by unfold onGrid; split <;> rfl
@[simp] theorem onGrid_requests (u : Nat) (f : Grid → Grid) : (s.onGrid u f).requests = s.requests := by unfold onGrid; split <;> rfl
@[simp] theorem onGrid_copies (u : Nat) (f : Grid → Grid) : (s.onGrid u f).copies = s.copies := by unfold onGrid; split <;> rfl
@[simp] theorem onGrid_tlb (u : Nat) (f : Grid → Grid) : (s.onGrid u f).tlb = s.tlb := by unfold onGrid; split <;> rfl
@[simp] theorem onGrid_faults (u : Nat) (f : Grid → Grid) : (s.onGrid u f).faults = s.faults := by unfold onGrid; split <;> rfl
@[simp] theorem onGrid_events (u : Nat) (f : Grid → Grid) : (s.onGrid u f).events = s.events := by unfold onGrid; split <;> rfl
@[simp] theorem onGrid_module (u : Nat) (f : Grid → Grid) : (s.onGrid u f).module = s.module := by unfold onGrid; split <;> rfl
@[simp] theorem onGrid_agenda (u : Nat) (f : Grid → Grid) : (s.onGrid u f).agenda = s.agenda := by unfold onGrid; split <;> rfl
@[simp] theorem onGrid_issuing (u : Nat) (f : Grid → Grid) : (s.onGrid u f).issuing = s.issuing := by unfold onGrid; split <;> rfl
@[simp] theorem onGrid_fresh (u : Nat) (f : Grid → Grid) : (s.onGrid u f).fresh = s.fresh := by unfold onGrid; split <;> rfl
@[simp] theorem onGrid_draws (u : Nat) (f : Grid → Grid) : (s.onGrid u f).draws = s.draws := by unfold onGrid; split <;> rfl
@[simp] theorem onGrid_turn (u : Nat) (f : Grid → Grid) : (s.onGrid u f).turn = s.turn := by unfold onGrid; split <;> rfl

/-! ### onPart -/

@[simp] theorem onPart_waves (u : Nat) (f : Part → Part) : (s.onPart u f).waves = s.waves := by unfold onPart; split <;> rfl
@[simp] theorem onPart_blocks (u : Nat) (f : Part → Part) : (s.onPart u f).blocks = s.blocks := by unfold onPart; split <;> rfl
@[simp] theorem onPart_grids (u : Nat) (f : Part → Part) : (s.onPart u f).grids = s.grids := by unfold onPart; split <;> rfl
@[simp] theorem onPart_clusters (u : Nat) (f : Part → Part) : (s.onPart u f).clusters = s.clusters := by unfold onPart; split <;> rfl
@[simp] theorem onPart_mem (u : Nat) (f : Part → Part) : (s.onPart u f).mem = s.mem := by unfold onPart; split <;> rfl
@[simp] theorem onPart_bad (u : Nat) (f : Part → Part) : (s.onPart u f).bad = s.bad := by unfold onPart; split <;> rfl
@[simp] theorem onPart_sramBad (u : Nat) (f : Part → Part) : (s.onPart u f).sramBad = s.sramBad := by unfold onPart; split <;> rfl
@[simp] theorem onPart_l1Bad (u : Nat) (f : Part → Part) : (s.onPart u f).l1Bad = s.l1Bad := by unfold onPart; split <;> rfl
@[simp] theorem onPart_lost (u : Nat) (f : Part → Part) : (s.onPart u f).lost = s.lost := by unfold onPart; split <;> rfl
@[simp] theorem onPart_ws (u : Nat) (f : Part → Part) : (s.onPart u f).ws = s.ws := by unfold onPart; split <;> rfl
@[simp] theorem onPart_wsBad (u : Nat) (f : Part → Part) : (s.onPart u f).wsBad = s.wsBad := by unfold onPart; split <;> rfl
@[simp] theorem onPart_dirty (u : Nat) (f : Part → Part) : (s.onPart u f).dirty = s.dirty := by unfold onPart; split <;> rfl
@[simp] theorem onPart_clean (u : Nat) (f : Part → Part) : (s.onPart u f).clean = s.clean := by unfold onPart; split <;> rfl
@[simp] theorem onPart_homeMarks (u : Nat) (f : Part → Part) : (s.onPart u f).homeMarks = s.homeMarks := by unfold onPart; split <;> rfl
@[simp] theorem onPart_requests (u : Nat) (f : Part → Part) : (s.onPart u f).requests = s.requests := by unfold onPart; split <;> rfl
@[simp] theorem onPart_copies (u : Nat) (f : Part → Part) : (s.onPart u f).copies = s.copies := by unfold onPart; split <;> rfl
@[simp] theorem onPart_tlb (u : Nat) (f : Part → Part) : (s.onPart u f).tlb = s.tlb := by unfold onPart; split <;> rfl
@[simp] theorem onPart_faults (u : Nat) (f : Part → Part) : (s.onPart u f).faults = s.faults := by unfold onPart; split <;> rfl
@[simp] theorem onPart_events (u : Nat) (f : Part → Part) : (s.onPart u f).events = s.events := by unfold onPart; split <;> rfl
@[simp] theorem onPart_module (u : Nat) (f : Part → Part) : (s.onPart u f).module = s.module := by unfold onPart; split <;> rfl
@[simp] theorem onPart_agenda (u : Nat) (f : Part → Part) : (s.onPart u f).agenda = s.agenda := by unfold onPart; split <;> rfl
@[simp] theorem onPart_issuing (u : Nat) (f : Part → Part) : (s.onPart u f).issuing = s.issuing := by unfold onPart; split <;> rfl
@[simp] theorem onPart_fresh (u : Nat) (f : Part → Part) : (s.onPart u f).fresh = s.fresh := by unfold onPart; split <;> rfl
@[simp] theorem onPart_draws (u : Nat) (f : Part → Part) : (s.onPart u f).draws = s.draws := by unfold onPart; split <;> rfl
@[simp] theorem onPart_turn (u : Nat) (f : Part → Part) : (s.onPart u f).turn = s.turn := by unfold onPart; split <;> rfl

/-! ### Many writes of memory -/

@[simp] theorem storeEach_waves (cs : List (Nat × Byte)) : (s.storeEach cs).waves = s.waves := by
  induction cs generalizing s with
  | nil => rfl
  | cons c t ih => simp [storeEach, ih]
@[simp] theorem storeEach_blocks (cs : List (Nat × Byte)) : (s.storeEach cs).blocks = s.blocks := by
  induction cs generalizing s with
  | nil => rfl
  | cons c t ih => simp [storeEach, ih]
@[simp] theorem storeEach_grids (cs : List (Nat × Byte)) : (s.storeEach cs).grids = s.grids := by
  induction cs generalizing s with
  | nil => rfl
  | cons c t ih => simp [storeEach, ih]
@[simp] theorem storeEach_parts (cs : List (Nat × Byte)) : (s.storeEach cs).parts = s.parts := by
  induction cs generalizing s with
  | nil => rfl
  | cons c t ih => simp [storeEach, ih]
@[simp] theorem storeEach_clusters (cs : List (Nat × Byte)) : (s.storeEach cs).clusters = s.clusters := by
  induction cs generalizing s with
  | nil => rfl
  | cons c t ih => simp [storeEach, ih]
@[simp] theorem storeEach_bad (cs : List (Nat × Byte)) : (s.storeEach cs).bad = s.bad := by
  induction cs generalizing s with
  | nil => rfl
  | cons c t ih => simp [storeEach, ih]
@[simp] theorem storeEach_sramBad (cs : List (Nat × Byte)) : (s.storeEach cs).sramBad = s.sramBad := by
  induction cs generalizing s with
  | nil => rfl
  | cons c t ih => simp [storeEach, ih]
@[simp] theorem storeEach_l1Bad (cs : List (Nat × Byte)) : (s.storeEach cs).l1Bad = s.l1Bad := by
  induction cs generalizing s with
  | nil => rfl
  | cons c t ih => simp [storeEach, ih]
@[simp] theorem storeEach_lost (cs : List (Nat × Byte)) : (s.storeEach cs).lost = s.lost := by
  induction cs generalizing s with
  | nil => rfl
  | cons c t ih => simp [storeEach, ih]
@[simp] theorem storeEach_ws (cs : List (Nat × Byte)) : (s.storeEach cs).ws = s.ws := by
  induction cs generalizing s with
  | nil => rfl
  | cons c t ih => simp [storeEach, ih]
@[simp] theorem storeEach_wsBad (cs : List (Nat × Byte)) : (s.storeEach cs).wsBad = s.wsBad := by
  induction cs generalizing s with
  | nil => rfl
  | cons c t ih => simp [storeEach, ih]
@[simp] theorem storeEach_dirty (cs : List (Nat × Byte)) : (s.storeEach cs).dirty = s.dirty := by
  induction cs generalizing s with
  | nil => rfl
  | cons c t ih => simp [storeEach, ih]
@[simp] theorem storeEach_clean (cs : List (Nat × Byte)) : (s.storeEach cs).clean = s.clean := by
  induction cs generalizing s with
  | nil => rfl
  | cons c t ih => simp [storeEach, ih]
@[simp] theorem storeEach_homeMarks (cs : List (Nat × Byte)) : (s.storeEach cs).homeMarks = s.homeMarks := by
  induction cs generalizing s with
  | nil => rfl
  | cons c t ih => simp [storeEach, ih]
@[simp] theorem storeEach_requests (cs : List (Nat × Byte)) : (s.storeEach cs).requests = s.requests := by
  induction cs generalizing s with
  | nil => rfl
  | cons c t ih => simp [storeEach, ih]
@[simp] theorem storeEach_copies (cs : List (Nat × Byte)) : (s.storeEach cs).copies = s.copies := by
  induction cs generalizing s with
  | nil => rfl
  | cons c t ih => simp [storeEach, ih]
@[simp] theorem storeEach_tlb (cs : List (Nat × Byte)) : (s.storeEach cs).tlb = s.tlb := by
  induction cs generalizing s with
  | nil => rfl
  | cons c t ih => simp [storeEach, ih]
@[simp] theorem storeEach_faults (cs : List (Nat × Byte)) : (s.storeEach cs).faults = s.faults := by
  induction cs generalizing s with
  | nil => rfl
  | cons c t ih => simp [storeEach, ih]
@[simp] theorem storeEach_events (cs : List (Nat × Byte)) : (s.storeEach cs).events = s.events := by
  induction cs generalizing s with
  | nil => rfl
  | cons c t ih => simp [storeEach, ih]
@[simp] theorem storeEach_module (cs : List (Nat × Byte)) : (s.storeEach cs).module = s.module := by
  induction cs generalizing s with
  | nil => rfl
  | cons c t ih => simp [storeEach, ih]
@[simp] theorem storeEach_agenda (cs : List (Nat × Byte)) : (s.storeEach cs).agenda = s.agenda := by
  induction cs generalizing s with
  | nil => rfl
  | cons c t ih => simp [storeEach, ih]
@[simp] theorem storeEach_issuing (cs : List (Nat × Byte)) : (s.storeEach cs).issuing = s.issuing := by
  induction cs generalizing s with
  | nil => rfl
  | cons c t ih => simp [storeEach, ih]
@[simp] theorem storeEach_fresh (cs : List (Nat × Byte)) : (s.storeEach cs).fresh = s.fresh := by
  induction cs generalizing s with
  | nil => rfl
  | cons c t ih => simp [storeEach, ih]
@[simp] theorem storeEach_draws (cs : List (Nat × Byte)) : (s.storeEach cs).draws = s.draws := by
  induction cs generalizing s with
  | nil => rfl
  | cons c t ih => simp [storeEach, ih]
@[simp] theorem storeEach_turn (cs : List (Nat × Byte)) : (s.storeEach cs).turn = s.turn := by
  induction cs generalizing s with
  | nil => rfl
  | cons c t ih => simp [storeEach, ih]
@[simp] theorem writeCells_waves (cs : List (Nat × Byte)) : (s.writeCells cs).waves = s.waves := by simp [writeCells]
@[simp] theorem writeBytes_waves (a : Nat) (bs : List Byte) : (s.writeBytes a bs).waves = s.waves := by simp [writeBytes]
@[simp] theorem writeCells_blocks (cs : List (Nat × Byte)) : (s.writeCells cs).blocks = s.blocks := by simp [writeCells]
@[simp] theorem writeBytes_blocks (a : Nat) (bs : List Byte) : (s.writeBytes a bs).blocks = s.blocks := by simp [writeBytes]
@[simp] theorem writeCells_grids (cs : List (Nat × Byte)) : (s.writeCells cs).grids = s.grids := by simp [writeCells]
@[simp] theorem writeBytes_grids (a : Nat) (bs : List Byte) : (s.writeBytes a bs).grids = s.grids := by simp [writeBytes]
@[simp] theorem writeCells_parts (cs : List (Nat × Byte)) : (s.writeCells cs).parts = s.parts := by simp [writeCells]
@[simp] theorem writeBytes_parts (a : Nat) (bs : List Byte) : (s.writeBytes a bs).parts = s.parts := by simp [writeBytes]
@[simp] theorem writeCells_clusters (cs : List (Nat × Byte)) : (s.writeCells cs).clusters = s.clusters := by simp [writeCells]
@[simp] theorem writeBytes_clusters (a : Nat) (bs : List Byte) : (s.writeBytes a bs).clusters = s.clusters := by simp [writeBytes]
@[simp] theorem writeCells_sramBad (cs : List (Nat × Byte)) : (s.writeCells cs).sramBad = s.sramBad := by simp [writeCells]
@[simp] theorem writeCells_l1Bad (cs : List (Nat × Byte)) : (s.writeCells cs).l1Bad = s.l1Bad := by simp [writeCells]
@[simp] theorem writeBytes_sramBad (a : Nat) (bs : List Byte) : (s.writeBytes a bs).sramBad = s.sramBad := by simp [writeBytes]
@[simp] theorem writeBytes_l1Bad (a : Nat) (bs : List Byte) : (s.writeBytes a bs).l1Bad = s.l1Bad := by simp [writeBytes]
@[simp] theorem writeCells_ws (cs : List (Nat × Byte)) : (s.writeCells cs).ws = s.ws := by simp [writeCells]
@[simp] theorem writeBytes_ws (a : Nat) (bs : List Byte) : (s.writeBytes a bs).ws = s.ws := by simp [writeBytes]
@[simp] theorem writeCells_wsBad (cs : List (Nat × Byte)) : (s.writeCells cs).wsBad = s.wsBad := by simp [writeCells]
@[simp] theorem writeBytes_wsBad (a : Nat) (bs : List Byte) : (s.writeBytes a bs).wsBad = s.wsBad := by simp [writeBytes]
@[simp] theorem writeCells_dirty (cs : List (Nat × Byte)) : (s.writeCells cs).dirty = s.dirty := by simp [writeCells]
@[simp] theorem writeBytes_dirty (a : Nat) (bs : List Byte) : (s.writeBytes a bs).dirty = s.dirty := by simp [writeBytes]
@[simp] theorem writeCells_clean (cs : List (Nat × Byte)) : (s.writeCells cs).clean = s.clean := by simp [writeCells]
@[simp] theorem writeBytes_clean (a : Nat) (bs : List Byte) : (s.writeBytes a bs).clean = s.clean := by simp [writeBytes]
@[simp] theorem writeCells_homeMarks (cs : List (Nat × Byte)) : (s.writeCells cs).homeMarks = s.homeMarks := by simp [writeCells]
@[simp] theorem writeBytes_homeMarks (a : Nat) (bs : List Byte) : (s.writeBytes a bs).homeMarks = s.homeMarks := by simp [writeBytes]
@[simp] theorem writeCells_requests (cs : List (Nat × Byte)) : (s.writeCells cs).requests = s.requests := by simp [writeCells]
@[simp] theorem writeBytes_requests (a : Nat) (bs : List Byte) : (s.writeBytes a bs).requests = s.requests := by simp [writeBytes]
@[simp] theorem writeCells_copies (cs : List (Nat × Byte)) : (s.writeCells cs).copies = s.copies := by simp [writeCells]
@[simp] theorem writeBytes_copies (a : Nat) (bs : List Byte) : (s.writeBytes a bs).copies = s.copies := by simp [writeBytes]
@[simp] theorem writeCells_tlb (cs : List (Nat × Byte)) : (s.writeCells cs).tlb = s.tlb := by simp [writeCells]
@[simp] theorem writeBytes_tlb (a : Nat) (bs : List Byte) : (s.writeBytes a bs).tlb = s.tlb := by simp [writeBytes]
@[simp] theorem writeCells_faults (cs : List (Nat × Byte)) : (s.writeCells cs).faults = s.faults := by simp [writeCells]
@[simp] theorem writeBytes_faults (a : Nat) (bs : List Byte) : (s.writeBytes a bs).faults = s.faults := by simp [writeBytes]
@[simp] theorem writeCells_events (cs : List (Nat × Byte)) : (s.writeCells cs).events = s.events := by simp [writeCells]
@[simp] theorem writeBytes_events (a : Nat) (bs : List Byte) : (s.writeBytes a bs).events = s.events := by simp [writeBytes]
@[simp] theorem writeCells_module (cs : List (Nat × Byte)) : (s.writeCells cs).module = s.module := by simp [writeCells]
@[simp] theorem writeBytes_module (a : Nat) (bs : List Byte) : (s.writeBytes a bs).module = s.module := by simp [writeBytes]
@[simp] theorem writeCells_agenda (cs : List (Nat × Byte)) : (s.writeCells cs).agenda = s.agenda := by simp [writeCells]
@[simp] theorem writeBytes_agenda (a : Nat) (bs : List Byte) : (s.writeBytes a bs).agenda = s.agenda := by simp [writeBytes]
@[simp] theorem writeCells_issuing (cs : List (Nat × Byte)) : (s.writeCells cs).issuing = s.issuing := by simp [writeCells]
@[simp] theorem writeBytes_issuing (a : Nat) (bs : List Byte) : (s.writeBytes a bs).issuing = s.issuing := by simp [writeBytes]
@[simp] theorem writeCells_fresh (cs : List (Nat × Byte)) : (s.writeCells cs).fresh = s.fresh := by simp [writeCells]
@[simp] theorem writeBytes_fresh (a : Nat) (bs : List Byte) : (s.writeBytes a bs).fresh = s.fresh := by simp [writeBytes]
@[simp] theorem writeCells_draws (cs : List (Nat × Byte)) : (s.writeCells cs).draws = s.draws := by simp [writeCells]
@[simp] theorem writeCells_turn (cs : List (Nat × Byte)) : (s.writeCells cs).turn = s.turn := by simp [writeCells]
@[simp] theorem writeBytes_draws (a : Nat) (bs : List Byte) : (s.writeBytes a bs).draws = s.draws := by simp [writeBytes]
@[simp] theorem writeBytes_turn (a : Nat) (bs : List Byte) : (s.writeBytes a bs).turn = s.turn := by simp [writeBytes]

/-! ### The issuing wave and its block -/

@[simp] theorem ownBlock_waves (c : Issue) (f : Block → Block) : (s.ownBlock c f).waves = s.waves := by simp [ownBlock]
@[simp] theorem own_blocks (c : Issue) (f : Wave → Wave) : (s.own c f).blocks = s.blocks := by simp [own]
@[simp] theorem own_grids (c : Issue) (f : Wave → Wave) : (s.own c f).grids = s.grids := by simp [own]
@[simp] theorem ownBlock_grids (c : Issue) (f : Block → Block) : (s.ownBlock c f).grids = s.grids := by simp [ownBlock]
@[simp] theorem own_parts (c : Issue) (f : Wave → Wave) : (s.own c f).parts = s.parts := by simp [own]
@[simp] theorem ownBlock_parts (c : Issue) (f : Block → Block) : (s.ownBlock c f).parts = s.parts := by simp [ownBlock]
@[simp] theorem own_clusters (c : Issue) (f : Wave → Wave) : (s.own c f).clusters = s.clusters := by simp [own]
@[simp] theorem ownBlock_clusters (c : Issue) (f : Block → Block) : (s.ownBlock c f).clusters = s.clusters := by simp [ownBlock]
@[simp] theorem own_mem (c : Issue) (f : Wave → Wave) : (s.own c f).mem = s.mem := by simp [own]
@[simp] theorem ownBlock_mem (c : Issue) (f : Block → Block) : (s.ownBlock c f).mem = s.mem := by simp [ownBlock]
@[simp] theorem own_bad (c : Issue) (f : Wave → Wave) : (s.own c f).bad = s.bad := by simp [own]
@[simp] theorem ownBlock_bad (c : Issue) (f : Block → Block) : (s.ownBlock c f).bad = s.bad := by simp [ownBlock]
@[simp] theorem own_sramBad (c : Issue) (f : Wave → Wave) : (s.own c f).sramBad = s.sramBad := by simp [own]
@[simp] theorem own_l1Bad (c : Issue) (f : Wave → Wave) : (s.own c f).l1Bad = s.l1Bad := by simp [own]
@[simp] theorem own_lost (c : Issue) (f : Wave → Wave) : (s.own c f).lost = s.lost := by simp [own]
@[simp] theorem ownBlock_sramBad (c : Issue) (f : Block → Block) : (s.ownBlock c f).sramBad = s.sramBad := by simp [ownBlock]
@[simp] theorem ownBlock_l1Bad (c : Issue) (f : Block → Block) : (s.ownBlock c f).l1Bad = s.l1Bad := by simp [ownBlock]
@[simp] theorem ownBlock_lost (c : Issue) (f : Block → Block) : (s.ownBlock c f).lost = s.lost := by simp [ownBlock]
@[simp] theorem own_ws (c : Issue) (f : Wave → Wave) : (s.own c f).ws = s.ws := by simp [own]
@[simp] theorem ownBlock_ws (c : Issue) (f : Block → Block) : (s.ownBlock c f).ws = s.ws := by simp [ownBlock]
@[simp] theorem own_wsBad (c : Issue) (f : Wave → Wave) : (s.own c f).wsBad = s.wsBad := by simp [own]
@[simp] theorem ownBlock_wsBad (c : Issue) (f : Block → Block) : (s.ownBlock c f).wsBad = s.wsBad := by simp [ownBlock]
@[simp] theorem own_dirty (c : Issue) (f : Wave → Wave) : (s.own c f).dirty = s.dirty := by simp [own]
@[simp] theorem ownBlock_dirty (c : Issue) (f : Block → Block) : (s.ownBlock c f).dirty = s.dirty := by simp [ownBlock]
@[simp] theorem own_clean (c : Issue) (f : Wave → Wave) : (s.own c f).clean = s.clean := by simp [own]
@[simp] theorem ownBlock_clean (c : Issue) (f : Block → Block) : (s.ownBlock c f).clean = s.clean := by simp [ownBlock]
@[simp] theorem own_homeMarks (c : Issue) (f : Wave → Wave) : (s.own c f).homeMarks = s.homeMarks := by simp [own]
@[simp] theorem ownBlock_homeMarks (c : Issue) (f : Block → Block) : (s.ownBlock c f).homeMarks = s.homeMarks := by simp [ownBlock]
@[simp] theorem own_requests (c : Issue) (f : Wave → Wave) : (s.own c f).requests = s.requests := by simp [own]
@[simp] theorem ownBlock_requests (c : Issue) (f : Block → Block) : (s.ownBlock c f).requests = s.requests := by simp [ownBlock]
@[simp] theorem own_copies (c : Issue) (f : Wave → Wave) : (s.own c f).copies = s.copies := by simp [own]
@[simp] theorem ownBlock_copies (c : Issue) (f : Block → Block) : (s.ownBlock c f).copies = s.copies := by simp [ownBlock]
@[simp] theorem own_tlb (c : Issue) (f : Wave → Wave) : (s.own c f).tlb = s.tlb := by simp [own]
@[simp] theorem ownBlock_tlb (c : Issue) (f : Block → Block) : (s.ownBlock c f).tlb = s.tlb := by simp [ownBlock]
@[simp] theorem own_faults (c : Issue) (f : Wave → Wave) : (s.own c f).faults = s.faults := by simp [own]
@[simp] theorem ownBlock_faults (c : Issue) (f : Block → Block) : (s.ownBlock c f).faults = s.faults := by simp [ownBlock]
@[simp] theorem own_events (c : Issue) (f : Wave → Wave) : (s.own c f).events = s.events := by simp [own]
@[simp] theorem ownBlock_events (c : Issue) (f : Block → Block) : (s.ownBlock c f).events = s.events := by simp [ownBlock]
@[simp] theorem own_module (c : Issue) (f : Wave → Wave) : (s.own c f).module = s.module := by simp [own]
@[simp] theorem ownBlock_module (c : Issue) (f : Block → Block) : (s.ownBlock c f).module = s.module := by simp [ownBlock]
@[simp] theorem own_agenda (c : Issue) (f : Wave → Wave) : (s.own c f).agenda = s.agenda := by simp [own]
@[simp] theorem ownBlock_agenda (c : Issue) (f : Block → Block) : (s.ownBlock c f).agenda = s.agenda := by simp [ownBlock]
@[simp] theorem own_issuing (c : Issue) (f : Wave → Wave) : (s.own c f).issuing = s.issuing := by simp [own]
@[simp] theorem ownBlock_issuing (c : Issue) (f : Block → Block) : (s.ownBlock c f).issuing = s.issuing := by simp [ownBlock]
@[simp] theorem own_fresh (c : Issue) (f : Wave → Wave) : (s.own c f).fresh = s.fresh := by simp [own]
@[simp] theorem ownBlock_fresh (c : Issue) (f : Block → Block) : (s.ownBlock c f).fresh = s.fresh := by simp [ownBlock]
@[simp] theorem own_draws (c : Issue) (f : Wave → Wave) : (s.own c f).draws = s.draws := by simp [own]
@[simp] theorem own_turn (c : Issue) (f : Wave → Wave) : (s.own c f).turn = s.turn := by simp [own]
@[simp] theorem ownBlock_draws (c : Issue) (f : Block → Block) : (s.ownBlock c f).draws = s.draws := by simp [ownBlock]
@[simp] theorem ownBlock_turn (c : Issue) (f : Block → Block) : (s.ownBlock c f).turn = s.turn := by simp [ownBlock]

end Sys2Proof.Machine.State
end

