-- ==== Sys2Proof/Laws/Issue.lean ====
section
/-! SUPPORT. What issuing an instruction does: what `issue?` tells of the state, what stepping past an instruction leaves, what a write of
D leaves in the registers, and the one lemma that says everything an instruction computed lane by lane does. -/

namespace Sys2Proof.Machine

variable {s : State} {x : Fields} {c : Issue}

/-! ### What `issue?` tells -/

theorem issue?_cases (h : s.issue? x = some c) :
    s.wave? s.issuing = some c.wave ∧ c.wave.headPc = some c.pc ∧ s.block? c.wave.block = some c.block ∧
      s.grid? c.block.grid = some c.grid ∧ s.part? c.grid.part = some c.part ∧ c.group = c.wave.headLanes ∧
      c.active = c.wave.headLanes.filter (guardPasses c.wave x) := by
  unfold State.issue? at h
  split at h
  · cases h
  · rename_i w hw
    split at h
    · rename_i pc b hp hb
      split at h
      · cases h
      · rename_i g hg
        split at h
        · cases h
        · rename_i p hq
          cases h
          exact ⟨hw, hp, hb, hg, hq, rfl, rfl⟩
    · cases h

theorem wave?_uid {u : Nat} {w : Wave} (h : s.wave? u = some w) : w.uid = u := by
  have := List.find?_some h; simpa using this

theorem issue?_uid (h : s.issue? x = some c) : c.wave.uid = s.issuing := wave?_uid (issue?_cases h).1

theorem issue?_wave (h : s.issue? x = some c) : s.wave? c.wave.uid = some c.wave := by
  rw [issue?_uid h]; exact (issue?_cases h).1

theorem headLanes_present {w : Wave} {l : Nat} (h : l ∈ w.headLanes) : l < 32 ∧ w.isLive l = true := by
  unfold Wave.headLanes at h
  split at h
  · have hc := (List.mem_filter.1 h).1
    simp only [Wave.candidates] at hc
    split at hc <;> simp [Wave.presentLanes, Wave.ready, Wave.present] at hc <;> simp [hc]
  · simp at h

theorem group_live (h : s.issue? x = some c) {l : Nat} (hl : l ∈ c.group) : l < 32 ∧ c.wave.isLive l = true := by
  rw [(issue?_cases h).2.2.2.2.2.1] at hl; exact headLanes_present hl

theorem active_group (h : s.issue? x = some c) {l : Nat} (hl : l ∈ c.active) : l ∈ c.group := by
  have e := issue?_cases h
  rw [e.2.2.2.2.2.2] at hl; rw [e.2.2.2.2.2.1]; exact (List.mem_filter.1 hl).1

theorem active_lt (h : s.issue? x = some c) {l : Nat} (hl : l ∈ c.active) : l < 32 := (group_live h (active_group h hl)).1

/-! ### Lookups after updates -/

theorem wave?_setWave (w : Wave) (u : Nat) :
    (s.setWave w).wave? u = (s.wave? u).map (fun o => if o.uid = w.uid then w else o) := by
  unfold State.wave? State.setWave
  simp only
  induction s.waves with
  | nil => rfl
  | cons a t ih =>
    by_cases ha : a.uid = w.uid
    · by_cases hu : w.uid = u <;> simp [ha, hu, ih]
    · by_cases hu : a.uid = u
      · subst hu; simp [ha]
      · simp [ha, hu, ih]

/-- A change of one wave that keeps its name. -/
theorem wave?_onWave (u v : Nat) (f : Wave → Wave) (hf : ∀ w, (f w).uid = w.uid) :
    (s.onWave u f).wave? v = if v = u then (s.wave? v).map f else s.wave? v := by
  unfold State.onWave
  cases hu : s.wave? u with
  | none => by_cases h : v = u <;> simp [h, hu]
  | some w =>
    have hw := wave?_uid hu
    simp only [wave?_setWave, hf]
    by_cases h : v = u
    · subst h; simp [hu, hw]
    · cases hv : s.wave? v with
      | none => simp
      | some o =>
        have ho := wave?_uid hv
        have : o.uid ≠ w.uid := by rw [ho, hw]; exact h
        simp [h, this]

theorem wave?_own (u : Nat) (f : Wave → Wave) (hf : ∀ w, (f w).uid = w.uid) :
    (s.own c f).wave? u = if u = c.wave.uid then (s.wave? u).map f else s.wave? u := wave?_onWave _ _ f hf

theorem wave?_mapWaves (ws : List Wave) (g : Wave → Wave) (hg : ∀ w, (g w).uid = w.uid) (u : Nat) :
    (ws.map g).find? (fun w => w.uid == u) = (ws.find? (fun w => w.uid == u)).map g := by
  induction ws with
  | nil => rfl
  | cons a t ih => by_cases ha : a.uid = u <;> simp [hg, ha, ih]

theorem own_rest (f : Wave → Wave) : { s.own c f with waves := s.waves } = s := by
  unfold State.own State.onWave; split <;> rfl

/-! ### Stepping past -/

theorem seeIssue_uid (a : Nat) (w : Wave) : (w.seeIssue a).uid = w.uid := by unfold Wave.seeIssue; split <;> rfl

theorem pass_uid (w : Wave) (js : List (Nat × Nat)) : (w.pass c x js).uid = w.uid := rfl

theorem lane_pass (w : Wave) (js : List (Nat × Nat)) (l : Nat) :
    (w.pass c x js).lane l =
      if l ∈ c.group ∧ l < w.lanes.length then { w.lane l with pc := nextPc c js l, held := false } else w.lane l := by
  unfold Wave.pass Wave.lane
  simp only [List.getD_eq_getElem?_getD, List.getElem?_mapIdx]
  by_cases hl : l < w.lanes.length
  · simp only [hl, List.getElem?_eq_getElem, Option.map_some, Option.getD_some, and_true, List.contains_iff_mem]
  · simp [hl]

/-- The lanes of the issuing wave after the step, where its live lanes are those it issued with. -/
theorem lane_lt_of_live {w : Wave} {l : Nat} (h : w.isLive l = true) : l < w.lanes.length := by
  unfold Wave.isLive Wave.lane at h
  rcases Nat.lt_or_ge l w.lanes.length with hl | hl
  · exact hl
  · simp [hl, Lane.absent] at h

theorem fallen_nil (h : c.pc + 12 < c.codeSize) (js : List (Nat × Nat)) : fallen s c js = [] := by simp [fallen, h]

/-- Stepping past an instruction inside the code: the group's counters move, and other waves see the issue. -/
theorem finish_inside (h : c.pc + 12 < c.codeSize) (js : List (Nat × Nat)) :
    s.finish c x js = { s.own c (fun w => w.pass c x js) with
      waves := (s.own c (fun w => w.pass c x js)).waves.map (fun w => if w.uid = c.wave.uid then w else Wave.seeIssue c.wave.uid w) } := by
  unfold State.finish
  simp [fallen_nil h]

theorem finish_rest (h : c.pc + 12 < c.codeSize) (js : List (Nat × Nat)) : { s.finish c x js with waves := s.waves } = s := by
  rw [finish_inside h]; exact own_rest (s := s) (c := c) _

theorem finish_wave? (h : c.pc + 12 < c.codeSize) (js : List (Nat × Nat)) (u : Nat) :
    (s.finish c x js).wave? u =
      if u = c.wave.uid then (s.wave? u).map (fun w => w.pass c x js) else (s.wave? u).map (Wave.seeIssue c.wave.uid) := by
  rw [finish_inside h]
  unfold State.wave?
  simp only
  rw [wave?_mapWaves _ _ (fun w => by split <;> simp [seeIssue_uid])]
  have := wave?_own (s := s) (c := c) u (fun w => w.pass c x js) (fun _ => rfl)
  unfold State.wave? at this
  rw [this]
  by_cases hu : u = c.wave.uid
  · simp only [hu, if_true, Option.map_map]
    cases hw : s.waves.find? (fun w => w.uid == c.wave.uid) with
    | none => rfl
    | some w => have := List.find?_some hw; simp at this; simp [pass_uid, this]
  · simp only [hu, if_false]
    cases hw : s.waves.find? (fun w => w.uid == u) with
    | none => rfl
    | some w =>
      have := List.find?_some hw
      simp at this
      have h2 : w.uid ≠ c.wave.uid := by rw [this]; exact hu
      simp [h2]

/-- An instruction whose effect passes: the step past it follows. -/
theorem issueFull_ok {k : Issue → Except Stop (State × List (Nat × Nat))} {post : Issue → State → State} {s' : State}
    {js : List (Nat × Nat)} (h : s.issue? x = some c) (hk : k c = .ok (s', js)) :
    issueFull s x k post = .next (post c (s'.finish c x js)) := by
  unfold issueFull; simp [h, hk]

theorem issueJump_ok {k : Issue → Except Stop (State × List (Nat × Nat))} {s' : State} {js : List (Nat × Nat)}
    (h : s.issue? x = some c) (hk : k c = .ok (s', js)) : issueJump s x k = .next (s'.finish c x js) := issueFull_ok h hk

theorem issue_ok {k : Issue → Effect} {s' : State} (h : s.issue? x = some c) (hk : k c = .ok s') :
    issue s x k = .next (s'.finish c x []) := by
  unfold issue; exact issueJump_ok h (by simp [hk, Except.map])

theorem issue_wait {k : Issue → Effect} (h : s.issue? x = some c) (hk : k c = .error .wait) : issue s x k = .next s := by
  unfold issue issueJump issueFull; simp [h, hk, Except.map]

theorem issue_stay {k : Issue → Effect} {t : State} (h : s.issue? x = some c) (hk : k c = .error (.stay t)) :
    issue s x k = .next t := by
  unfold issue issueJump issueFull; simp [h, hk, Except.map]

theorem issue_trap {k : Issue → Effect} {t : Trap} (h : s.issue? x = some c) (hk : k c = .error (.trap t)) :
    issue s x k = .next (s.raise c t (resumeOffset c t)) := by
  unfold issue issueJump issueFull; simp [h, hk, Except.map]

/-- An instruction word goes on whenever a head group issues it. -/
theorem issueFull_next (h : (s.issue? x).isSome) (k : Issue → Except Stop (State × List (Nat × Nat))) (post : Issue → State → State) :
    ∃ t, issueFull s x k post = .next t := by
  obtain ⟨c, hc⟩ := Option.isSome_iff_exists.1 h
  unfold issueFull; rw [hc]; simp only
  split <;> exact ⟨_, rfl⟩

theorem issueJump_next (h : (s.issue? x).isSome) (k : Issue → Except Stop (State × List (Nat × Nat))) :
    ∃ t, issueJump s x k = .next t := issueFull_next h _ _

theorem issue_next (h : (s.issue? x).isSome) (k : Issue → Effect) : ∃ t, issue s x k = .next t := issueJump_next h _

/-- Whether a head group issues does not depend on the instruction's fields. -/
theorem issue?_isSome (x y : Fields) : (s.issue? x).isSome = (s.issue? y).isSome := by
  unfold State.issue?
  split
  · rfl
  · split
    · split
      · rfl
      · split <;> rfl
    · rfl

end Sys2Proof.Machine
end

