-- ==== Sys2Proof/Laws/Registers.lean ====
section
/-! SUPPORT. Reads of a wave's registers after writes, and the one lemma of the lane-by-lane instructions: what `alu` does when its
operands can be read. -/

namespace Sys2Proof.Machine

variable {s : State} {x : Fields} {c : Issue} {w : Wave}

/-! ### One element -/

theorem readV_writeV (r l r' l' : Nat) (e : Elem) (hl : l < 32) (hl' : l' < 32) :
    (w.writeV r l e).readV r' l' = if r' = r ∧ l' = l then e else w.readV r' l' := by
  simp only [Wave.readV, Wave.writeV, Sparse.get_set]
  by_cases h : r' = r ∧ l' = l
  · simp [h]
  · have : 32 * r' + l' ≠ 32 * r + l := by omega
    simp [h, this]

theorem readS_writeS (r r' : Nat) (e : Elem) : (w.writeS r e).readS r' = if r' = r then e else w.readS r' := by
  simp [Wave.readS, Wave.writeS, Sparse.get_set]

theorem readP_writeP (q l q' l' : Nat) (e : Pred) (hl : l < 32) (hl' : l' < 32) :
    (w.writeP q l e).readP q' l' = if q' = q ∧ q' ≠ 7 ∧ l' = l then e else w.readP q' l' := by
  unfold Wave.writeP
  by_cases h7 : q = 7
  · subst h7; by_cases hq : q' = 7 <;> simp [hq]
  · simp only [h7, if_false, Wave.readP, Sparse.get_set]
    by_cases hq : q' = 7
    · simp [hq]
    · by_cases h : q' = q ∧ l' = l
      · simp [h, h7]
      · have h2 : 32 * q' + l' ≠ 32 * q + l := by omega
        have h3 : ¬(q' = q ∧ q' ≠ 7 ∧ l' = l) := fun e => h ⟨e.1, e.2.2⟩
        rw [if_neg hq, if_neg h2, if_neg hq, if_neg h3]

@[simp] theorem writeV_s (r l : Nat) (e : Elem) : (w.writeV r l e).s = w.s := rfl
@[simp] theorem writeV_p (r l : Nat) (e : Elem) : (w.writeV r l e).p = w.p := rfl
@[simp] theorem writeS_v (r : Nat) (e : Elem) : (w.writeS r e).v = w.v := rfl
@[simp] theorem writeS_p (r : Nat) (e : Elem) : (w.writeS r e).p = w.p := rfl
@[simp] theorem writeP_v (q l : Nat) (e : Pred) : (w.writeP q l e).v = w.v := by unfold Wave.writeP; split <;> rfl
@[simp] theorem writeP_s (q l : Nat) (e : Pred) : (w.writeP q l e).s = w.s := by unfold Wave.writeP; split <;> rfl

/-- A wave whose register files alone may differ. -/
def SameBut (a b : Wave) : Prop := { a with v := b.v, s := b.s, p := b.p, written := b.written } = b

theorem SameBut.refl (a : Wave) : SameBut a a := rfl
theorem SameBut.trans {a b d : Wave} (h : SameBut a b) (k : SameBut b d) : SameBut a d := by
  unfold SameBut at *; rw [← k, ← h]
theorem sameBut_writeV (r l : Nat) (e : Elem) : SameBut (w.writeV r l e) w := rfl
theorem sameBut_writeS (r : Nat) (e : Elem) : SameBut (w.writeS r e) w := rfl
theorem sameBut_writeP (q l : Nat) (e : Pred) : SameBut (w.writeP q l e) w := by unfold Wave.writeP; split <;> rfl

theorem sameBut_foldl {α : Type} (f : Wave → α → Wave) (hf : ∀ w a, SameBut (f w a) w) (ls : List α) (w : Wave) :
    SameBut (ls.foldl f w) w := by
  induction ls generalizing w with
  | nil => exact .refl w
  | cons a t ih => exact (ih _).trans (hf w a)

theorem sameBut_putV (n regs l : Nat) (r : Result) : SameBut (w.putV n regs l r) w :=
  sameBut_foldl _ (fun _ _ => sameBut_writeV _ _ _) _ _
theorem sameBut_putS (n regs : Nat) (r : Result) : SameBut (w.putS n regs r) w :=
  sameBut_foldl _ (fun _ _ => sameBut_writeS _ _) _ _
theorem sameBut_putResult (d : Operand) (regs : Nat) (active : List Nat) (r : Nat → Result) :
    SameBut (w.putResult d regs active r) w := by
  unfold Wave.putResult
  split
  · exact sameBut_foldl _ (fun _ _ => sameBut_putV _ _ _ _) _ _
  · exact sameBut_foldl _ (fun _ _ => sameBut_writeP _ _ _) _ _
  · split
    · exact .refl _
    · exact sameBut_putS _ _ _
  · exact .refl _

/-! ### A result of several registers -/

/-- A fold that leaves a view alone. -/
theorem foldl_view {α β γ : Type} (f : β → α → β) (g : β → γ) (hf : ∀ b a, g (f b a) = g b) (ls : List α) (b : β) :
    g (ls.foldl f b) = g b := by
  induction ls generalizing b with
  | nil => rfl
  | cons a t ih => rw [List.foldl_cons, ih, hf]

theorem readV_putV (n regs l r' l' : Nat) (r : Result) (hl : l < 32) (hl' : l' < 32) :
    (w.putV n regs l r).readV r' l' =
      if n ≤ r' ∧ r' < n + regs ∧ l' = l then element r.val r.pz (r' - n) else w.readV r' l' := by
  unfold Wave.putV
  induction regs with
  | zero =>
    have : ¬(n ≤ r' ∧ r' < n + 0 ∧ l' = l) := by omega
    rw [if_neg this]; rfl
  | succ k ih =>
    rw [List.range_succ, List.foldl_append]
    simp only [List.foldl_cons, List.foldl_nil]
    rw [readV_writeV _ _ _ _ _ hl hl', ih]
    by_cases h : r' = n + k ∧ l' = l
    · have : n ≤ r' ∧ r' < n + (k + 1) ∧ l' = l := by omega
      rw [if_pos h, if_pos this, h.1]; simp [element]
    · by_cases h2 : n ≤ r' ∧ r' < n + k ∧ l' = l
      · have : n ≤ r' ∧ r' < n + (k + 1) ∧ l' = l := by omega
        rw [if_neg h, if_pos h2, if_pos this]
      · have : ¬(n ≤ r' ∧ r' < n + (k + 1) ∧ l' = l) := by omega
        rw [if_neg h, if_neg h2, if_neg this]

theorem readS_putS (n regs r' : Nat) (r : Result) :
    (w.putS n regs r).readS r' = if n ≤ r' ∧ r' < n + regs then element r.val r.pz (r' - n) else w.readS r' := by
  unfold Wave.putS
  induction regs with
  | zero =>
    have : ¬(n ≤ r' ∧ r' < n + 0) := by omega
    rw [if_neg this]; rfl
  | succ k ih =>
    rw [List.range_succ, List.foldl_append]
    simp only [List.foldl_cons, List.foldl_nil]
    rw [readS_writeS, ih]
    by_cases h : r' = n + k
    · subst h
      have : n ≤ n + k ∧ n + k < n + (k + 1) := by omega
      simp [element]
    · by_cases h2 : n ≤ r' ∧ r' < n + k
      · have : n ≤ r' ∧ r' < n + (k + 1) := by omega
        rw [if_neg h, if_pos h2, if_pos this]
      · have : ¬(n ≤ r' ∧ r' < n + (k + 1)) := by omega
        rw [if_neg h, if_neg h2, if_neg this]

theorem readV_puts (n regs r' l' : Nat) (r : Nat → Result) (ls : List Nat) (h : ∀ l ∈ ls, l < 32) (hl' : l' < 32) :
    (ls.foldl (fun w l => w.putV n regs l (r l)) w).readV r' l' =
      if n ≤ r' ∧ r' < n + regs ∧ l' ∈ ls then element (r l').val (r l').pz (r' - n) else w.readV r' l' := by
  induction ls generalizing w with
  | nil => simp
  | cons a t ih =>
    rw [List.foldl_cons, ih (fun l hl => h l (by simp [hl])), readV_putV _ _ _ _ _ _ (h a (by simp)) hl']
    by_cases ht : l' ∈ t
    · by_cases hr : n ≤ r' ∧ r' < n + regs
      · simp [ht, hr]
      · have h1 : ¬(n ≤ r' ∧ r' < n + regs ∧ l' ∈ t) := fun e => hr ⟨e.1, e.2.1⟩
        have h2 : ¬(n ≤ r' ∧ r' < n + regs ∧ l' = a) := fun e => hr ⟨e.1, e.2.1⟩
        have h3 : ¬(n ≤ r' ∧ r' < n + regs ∧ l' ∈ a :: t) := fun e => hr ⟨e.1, e.2.1⟩
        rw [if_neg h1, if_neg h2, if_neg h3]
    · by_cases ha : l' = a
      · subst ha; simp [ht]
      · simp [ht, ha]

theorem readP_puts (q q' l' : Nat) (r : Nat → Result) (ls : List Nat) (h : ∀ l ∈ ls, l < 32) (hl' : l' < 32) :
    (ls.foldl (fun w l => w.writeP q l { val := decide ((r l).val ≠ 0), pz := (r l).pz }) w).readP q' l' =
      if q' = q ∧ q' ≠ 7 ∧ l' ∈ ls then { val := decide ((r l').val ≠ 0), pz := (r l').pz } else w.readP q' l' := by
  induction ls generalizing w with
  | nil => simp
  | cons a t ih =>
    rw [List.foldl_cons, ih (fun l hl => h l (by simp [hl])), readP_writeP _ _ _ _ _ (h a (by simp)) hl']
    by_cases ht : l' ∈ t
    · by_cases hq : q' = q ∧ q' ≠ 7
      · rw [if_pos ⟨hq.1, hq.2, ht⟩, if_pos ⟨hq.1, hq.2, by simp [ht]⟩]
      · have h1 : ¬(q' = q ∧ q' ≠ 7 ∧ l' ∈ t) := fun e => hq ⟨e.1, e.2.1⟩
        have h2 : ¬(q' = q ∧ q' ≠ 7 ∧ l' = a) := fun e => hq ⟨e.1, e.2.1⟩
        have h3 : ¬(q' = q ∧ q' ≠ 7 ∧ l' ∈ a :: t) := fun e => hq ⟨e.1, e.2.1⟩
        rw [if_neg h1, if_neg h2, if_neg h3]
    · by_cases ha : l' = a
      · subst ha; simp [ht]
      · simp [ht, ha]

theorem putV_s (n regs l : Nat) (r : Result) : (w.putV n regs l r).s = w.s := by
  unfold Wave.putV; refine foldl_view _ Wave.s (fun _ _ => ?_) _ _; rfl
theorem putV_p (n regs l : Nat) (r : Result) : (w.putV n regs l r).p = w.p := by
  unfold Wave.putV; refine foldl_view _ Wave.p (fun _ _ => ?_) _ _; rfl
theorem putS_v (n regs : Nat) (r : Result) : (w.putS n regs r).v = w.v := by
  unfold Wave.putS; refine foldl_view _ Wave.v (fun _ _ => ?_) _ _; rfl
theorem putS_p (n regs : Nat) (r : Result) : (w.putS n regs r).p = w.p := by
  unfold Wave.putS; refine foldl_view _ Wave.p (fun _ _ => ?_) _ _; rfl
theorem foldl_puts_s (n regs : Nat) (r : Nat → Result) (ls : List Nat) :
    (ls.foldl (fun w l => w.putV n regs l (r l)) w).s = w.s := foldl_view _ Wave.s (fun _ _ => putV_s _ _ _ _) _ _
theorem foldl_puts_p (n regs : Nat) (r : Nat → Result) (ls : List Nat) :
    (ls.foldl (fun w l => w.putV n regs l (r l)) w).p = w.p := foldl_view _ Wave.p (fun _ _ => putV_p _ _ _ _) _ _

/-- What a result leaves in the registers. -/
theorem holds_putResult (d : Operand) (n : Nat) (r : Nat → Result) (ha : ∀ l ∈ c.active, l < 32) :
    Holds c d n (fun l => (r l).val) (fun l => (r l).pz) w (w.putResult d n c.active r) := by
  have hs := sameBut_putResult (w := w) d n c.active r
  refine ⟨?_, ?_, ?_, ?_⟩
  · intro r' l hl
    cases d with
    | v b => exact readV_puts _ _ _ _ _ _ ha hl
    | s b =>
      simp only [Wave.putResult]
      split
      · rfl
      · exact congrArg (fun m => Sparse.get Elem.start m (32 * r' + l)) (putS_v _ _ _)
    | p b => exact congrArg (fun m => Sparse.get Elem.start m (32 * r' + l)) (foldl_view _ Wave.v (fun _ _ => writeP_v _ _ _) _ _)
    | _ => rfl
  · intro r'
    cases d with
    | v b => exact congrArg (fun m => Sparse.get Elem.start m r') (foldl_puts_s _ _ _ _)
    | s b =>
      simp only [Wave.putResult, afterS]
      cases c.active with
      | nil => rfl
      | cons a t => exact readS_putS _ _ _ _
    | p b => exact congrArg (fun m => Sparse.get Elem.start m r') (foldl_view _ Wave.s (fun _ _ => writeP_s _ _ _) _ _)
    | _ => rfl
  · intro q l hl
    cases d with
    | v b =>
      have := foldl_puts_p (w := w) b n r c.active
      simp only [Wave.putResult, Wave.readP, this, afterP]
    | s b =>
      simp only [Wave.putResult]
      split
      · rfl
      · rename_i a t e
        simp only [Wave.readP, putS_p, afterP]
    | p b => exact readP_puts _ _ _ _ _ ha hl
    | _ => rfl
  · exact hs

/-! ### The checks of an instruction that can read its operands -/

theorem stopIf_false (e : Stop) : stopIf false e = .ok () := rfl
theorem stopIf_true (e : Stop) : stopIf true e = .error e := rfl

theorem checkEmpty_full (srcs : List Src) (h : ∀ r ∈ srcs, ∀ l ∈ c.active, (readOp s c r.op r.regs l).full = true) :
    checkEmpty s c srcs = .ok () := by
  induction srcs with
  | nil => rfl
  | cons r t ih =>
    have : c.active.all (fun l => (readOp s c r.op r.regs l).full) = true := by
      rw [List.all_eq_true]; exact h r (by simp)
    simp only [checkEmpty, this, if_true]
    exact ih (fun r hr => h r (by simp [hr]))

theorem checkOperands_ready {srcs : List Src} {d : Operand} {n : Nat} (h : Readable s c srcs d n) :
    checkOperands s c srcs d n = .ok () := by
  unfold checkOperands
  by_cases ha : c.active = []
  · simp [ha]
  · have h1 : c.active.isEmpty = false := by simpa using ha
    have h2 : srcs.any (fun r => beyondGrant c.wave r.op r.regs) = false := by
      rw [List.any_eq_false]; intro r hr; simp [h.granted ha r hr]
    simp only [h1, h.place ha, h2, h.free ha, checkEmpty_full srcs h.full, Bool.or_self, stopIf_false]
    rfl

theorem checkPoison_sound {srcs : List Src} (h : Sound s c srcs) : checkPoison s c srcs = .ok () := by
  unfold checkPoison
  have : srcs.any (anyPoisoned s c) = false := by
    rw [List.any_eq_false]; intro r hr
    simp only [anyPoisoned, Bool.not_eq_true, List.any_eq_false]
    intro l hl; simp [h r hr l hl]
  simp [this, stopIf_false]

theorem guardUse_sound (h : GuardSound c x) : c.guardUse x = .ok () := by
  unfold Issue.guardUse
  have : c.group.any (guardPoisoned c.wave x) = false := by
    rw [List.any_eq_false]; intro l hl; simp [h l hl]
  simp [this, stopIf_false]

/-! ### Writing D and stepping past -/

theorem onlyIssuer_finish {f : Wave → Wave} (hf : ∀ w, (f w).uid = w.uid) (h : c.pc + 12 < c.codeSize) (js : List (Nat × Nat)) :
    OnlyIssuer s ((s.own c f).finish c x js) c := by
  refine ⟨?_, ?_⟩
  · have h1 := finish_rest (s := s.own c f) (x := x) h js
    have h2 := own_rest (s := s) (c := c) f
    generalize (s.own c f).finish c x js = t at h1
    generalize s.own c f = u at h1 h2
    rw [← h2, ← h1]
  · intro u hu
    rw [finish_wave? h, if_neg hu, wave?_own u f hf, if_neg hu]

theorem wave_finish {f : Wave → Wave} (hf : ∀ w, (f w).uid = w.uid) (hc : s.issue? x = some c) (h : c.pc + 12 < c.codeSize)
    (js : List (Nat × Nat)) : ((s.own c f).finish c x js).wave? c.wave.uid = some ((f c.wave).pass c x js) := by
  rw [finish_wave? h, if_pos rfl, wave?_own _ f hf, if_pos rfl, issue?_wave hc]; rfl

theorem pastIt_pass (hc : s.issue? x = some c) {w : Wave} (hl : w.lanes = c.wave.lanes) (js : List (Nat × Nat)) :
    PastIt c x (nextPc c js) w (w.pass c x js) := by
  refine ⟨?_, ?_, rfl, rfl⟩
  · simp [Wave.pass]
  · intro l
    rw [lane_pass, hl]
    by_cases h : l ∈ c.group
    · rw [if_pos ⟨h, lane_lt_of_live (group_live hc h).2⟩, if_pos h]
    · rw [if_neg (fun k => h k.1), if_neg h]

/-- An effect on the issuing wave alone, and the step past it. -/
theorem past_finish {f : Wave → Wave} (hf : ∀ w, (f w).uid = w.uid) (hl : (f c.wave).lanes = c.wave.lanes) (hc : s.issue? x = some c)
    (hi : c.pc + 12 < c.codeSize) (js : List (Nat × Nat)) :
    Past s ((s.own c f).finish c x js) c x (nextPc c js) (f c.wave) :=
  ⟨onlyIssuer_finish hf hi js, _, wave_finish hf hc hi js, pastIt_pass hc hl js, rfl⟩

/-- Computing D and stepping past is all that happens. -/
theorem wrote_putResult (hm : Meets s x c) (n : Nat) (r : Nat → Result) :
    Wrote s ((s.own c (fun w => w.putResult x.d n c.active r)).finish c x []) c x n (fun l => (r l).val) (fun l => (r l).pz) := by
  have hu : ∀ w : Wave, (w.putResult x.d n c.active r).uid = w.uid := fun w => by
    have := congrArg Wave.uid (sameBut_putResult (w := w) x.d n c.active r); exact this
  have hl : (c.wave.putResult x.d n c.active r).lanes = c.wave.lanes := by
    have := congrArg Wave.lanes (sameBut_putResult (w := c.wave) x.d n c.active r); exact this
  exact ⟨_, holds_putResult _ _ _ (fun l hl => active_lt hm.head hl), past_finish hu hl hm.head hm.inside []⟩

/-- What an instruction computed lane by lane does when it can read its operands. -/
theorem alu_wrote {h : Shape} {f : Args → Result} (hm : Meets s x c) (hr : Readable s c (h.srcs x) x.d h.d) :
    ∃ t, alu s x h f = .next t ∧ Wrote s t c x h.d (fun l => (f (laneArgs s c x h l)).val)
      (fun l => (f (laneArgs s c x h l)).pz || carries s c x (h.srcs x) l) :=
  ⟨_, issue_ok hm.head (by simp only [checkOperands_ready hr]; rfl), wrote_putResult hm _ _⟩

end Sys2Proof.Machine
end

