-- ==== Sys2Proof/Laws/Computed.lean ====
section
/-! SUPPORT. How a lane-by-lane instruction meets its statement: it is enough to compare the values. -/

namespace Sys2Proof.Machine

variable {s : State} {x : Fields} {c : Issue}

/-- An instruction that is one `alu` computes whatever its value function computes. -/
theorem computes_alu {mk : Fields → Instr} {h : Fields → Shape} {f : Fields → Args → Nat} {val : State → Issue → Fields → Nat → Nat}
    (he : ∀ x s, exec (mk x) s = alu s x (h x) (fun v => plain (f x v)))
    (hv : ∀ s c x l, f x (laneArgs s c x (h x) l) = val s c x l) : Computes mk h val := by
  intro s x c hm hr
  obtain ⟨t, ht, hw⟩ := alu_wrote (f := fun v => plain (f x v)) hm hr
  refine ⟨t, (he x s).trans ht, ?_⟩
  have e1 : (fun l => (plain (f x (laneArgs s c x (h x) l))).val) = val s c x := funext (fun l => hv s c x l)
  have e2 : (fun l => (plain (f x (laneArgs s c x (h x) l))).pz || carries s c x ((h x).srcs x) l) = carries s c x ((h x).srcs x) :=
    funext (fun l => by simp [plain])
  rw [e1, e2] at hw
  exact hw

/-! ### The size of what an operand delivers -/

theorem natOfWords_lt (ws : List Word) : natOfWords ws < 2 ^ (32 * ws.length) := by
  induction ws with
  | nil => simp [natOfWords]
  | cons w t ih =>
    have hw := w.isLt
    have : 2 ^ (32 * (t.length + 1)) = 2 ^ 32 * 2 ^ (32 * t.length) := by rw [← Nat.pow_add]; congr 1; omega
    simp only [natOfWords, List.length_cons, this]
    have : 2 ^ 32 * (natOfWords t + 1) ≤ 2 ^ 32 * 2 ^ (32 * t.length) := Nat.mul_le_mul_left _ ih
    omega

theorem readOp_lt (o : Operand) (regs l : Nat) (h : 0 < regs) : (readOp s c o regs l).val < 2 ^ (32 * regs) := by
  have h32 : 2 ^ 32 ≤ 2 ^ (32 * regs) := Nat.pow_le_pow_right (by omega) (by omega)
  have hp : 0 < 2 ^ (32 * regs) := Nat.pow_pos (by omega)
  cases o with
  | v n => have := natOfWords_lt ((c.wave.vElems n regs l).map Elem.val); simpa [readOp, Read.ofElems, Wave.vElems] using this
  | s n => have := natOfWords_lt ((c.wave.sElems n regs).map Elem.val); simpa [readOp, Read.ofElems, Wave.sElems] using this
  | sp r => exact Nat.mod_lt _ hp
  | imm b => exact BitVec.isLt _
  | imm32 w => exact BitVec.isLt _
  | p n =>
    have : (c.wave.readP n l).val.toNat < 2 ^ 32 := by cases (c.wave.readP n l).val <;> simp
    exact Nat.lt_of_lt_of_le this h32
  | f n => exact Nat.lt_of_lt_of_le (BitVec.isLt _) h32
  | c n => exact Nat.lt_of_lt_of_le (BitVec.isLt _) h32
  | _ => exact hp

/-- A value of one register, and the bits that the statements take it by. -/
theorem bits32_toNat (o : Operand) (l : Nat) : (bits32 s c o l).toNat = (readOp s c o 1 l).val := by
  simp only [bits32, BitVec.toNat_ofNat]; exact Nat.mod_eq_of_lt (readOp_lt o 1 l (by omega))

theorem bits64_toNat (o : Operand) (l : Nat) : (bits64 s c o l).toNat = (readOp s c o 2 l).val := by
  simp only [bits64, BitVec.toNat_ofNat]; exact Nat.mod_eq_of_lt (readOp_lt o 2 l (by omega))

end Sys2Proof.Machine
end

