-- ==== Sys2Proof/Laws/MemoryForm.lean ====
section
/-! SUPPORT. Memory keeps its canonical form: the rules by which every meaning is shown to keep it, and the operations of the shared
files. -/

namespace Sys2Proof.Machine

variable {s : State}

/-! ### Rules -/

/-- What a computation that may stop leaves: `P` of its result, and a memory in canonical form in a state that it stays in. -/
def Fits {α : Type} (P : α → Prop) : Except Stop α → Prop
  | .ok a => P a
  | .error (.stay t) => Memory.wf t.mem
  | .error _ => True

/-- Every next state of an outcome has its memory in canonical form. -/
def KeepsForm (o : Host.Outcome State Fault Refusal) : Prop := ∀ t, o = .next t → Memory.wf t.mem

@[simp] theorem keepsForm_next {t : State} : KeepsForm (.next t) ↔ Memory.wf t.mem := by simp [KeepsForm]
@[simp] theorem keepsForm_fault {r : Fault} : KeepsForm (.fault r) ↔ True := by simp [KeepsForm]

@[simp] theorem fits_ok {α : Type} {P : α → Prop} {a : α} : Fits P (.ok a) ↔ P a := Iff.rfl
@[simp] theorem fits_pure {α : Type} {P : α → Prop} {a : α} : Fits P (pure a) ↔ P a := Iff.rfl
@[simp] theorem fits_stay {α : Type} {P : α → Prop} {t : State} : Fits P (.error (.stay t) : Except Stop α) ↔ Memory.wf t.mem := Iff.rfl
@[simp] theorem fits_wait {α : Type} {P : α → Prop} : Fits P (.error .wait : Except Stop α) ↔ True := Iff.rfl
@[simp] theorem fits_trap {α : Type} {P : α → Prop} {t : Trap} : Fits P (.error (.trap t) : Except Stop α) ↔ True := Iff.rfl
@[simp] theorem fits_fault {α : Type} {P : α → Prop} {n d : Nat} : Fits P (.error (fault n d) : Except Stop α) ↔ True := Iff.rfl
@[simp] theorem fits_faultAt {α : Type} {P : α → Prop} {n d a : Nat} : Fits P (.error (faultAt n d a) : Except Stop α) ↔ True := Iff.rfl

@[simp] theorem fits_bind {α β : Type} {P : β → Prop} {x : Except Stop α} {f : α → Except Stop β} :
    Fits P (x >>= f) ↔ Fits (fun a => Fits P (f a)) x := by
  cases x with
  | ok a => rfl
  | error e => cases e <;> rfl

@[simp] theorem fits_map {α β : Type} {P : β → Prop} {x : Except Stop α} {f : α → β} :
    Fits P (x.map f) ↔ Fits (fun a => P (f a)) x := by
  cases x with
  | ok a => rfl
  | error e => cases e <;> rfl

theorem Fits.mono {α : Type} {P Q : α → Prop} {x : Except Stop α} (h : Fits P x) (i : ∀ a, P a → Q a) : Fits Q x := by
  cases x with
  | ok a => exact i a h
  | error e => cases e <;> exact h

/-- A check that never leaves a state of its own. -/
def Plain {α : Type} (x : Except Stop α) : Prop := ∀ t, x ≠ .error (.stay t)

theorem Plain.fits {α : Type} {P : α → Prop} {x : Except Stop α} (h : Plain x) (i : ∀ a, P a) : Fits P x := by
  cases x with
  | ok a => exact i a
  | error e =>
    cases e with
    | stay t => exact absurd rfl (h t)
    | wait => trivial
    | trap t => trivial

theorem wf_foldl {α : Type} {f : State → α → State} (hf : ∀ s x, Memory.wf s.mem → Memory.wf (f s x).mem) (l : List α)
    (h : Memory.wf s.mem) : Memory.wf (l.foldl f s).mem := by
  induction l generalizing s with
  | nil => exact h
  | cons a t ih => exact ih (hf _ _ h)

/-- A fold of steps that leave memory alone does. -/
theorem foldl_mem {α : Type} {f : State → α → State} (hf : ∀ s x, (f s x).mem = s.mem) (l : List α) : (l.foldl f s).mem = s.mem := by
  induction l generalizing s with
  | nil => rfl
  | cons a t ih => exact (ih (s := f s a)).trans (hf s a)

theorem fits_foldlM {α : Type} {f : State → α → Except Stop State} (hf : ∀ s x, Memory.wf s.mem → Fits (fun t => Memory.wf t.mem) (f s x))
    (l : List α) (h : Memory.wf s.mem) : Fits (fun t => Memory.wf t.mem) (l.foldlM f s) := by
  induction l generalizing s with
  | nil => exact h
  | cons a t ih =>
    simp only [List.foldlM_cons, fits_bind]
    exact (hf s a h).mono (fun _ => ih)

theorem plain_mapM {α β : Type} {f : α → Except Stop β} (hf : ∀ a, Plain (f a)) (l : List α) : Fits (fun _ => True) (l.mapM f) := by
  induction l with
  | nil => trivial
  | cons a t ih =>
    simp only [List.mapM_cons, fits_bind]
    exact (hf a).fits (fun _ => ih.mono (fun _ _ => trivial))

theorem fits_mapM {α β : Type} {f : α → Except Stop β} (hf : ∀ a, Fits (fun _ => True) (f a)) (l : List α) :
    Fits (fun _ => True) (l.mapM f) := by
  induction l with
  | nil => trivial
  | cons a t ih =>
    simp only [List.mapM_cons, fits_bind]
    exact (hf a).mono (fun _ _ => ih.mono (fun _ _ => trivial))

theorem Fits.all {α : Type} {P : α → Prop} {x : Except Stop α} (h : Fits (fun _ => True) x) (i : ∀ a, P a) : Fits P x :=
  h.mono (fun a _ => i a)

/-! ### Memory operations -/

@[simp] theorem wf_storeByte (a : Nat) (b : Byte) (h : Memory.wf s.mem) : Memory.wf (s.storeByte a b).mem := Sparse.wf_set h a b

@[simp] theorem wf_storeEach (cs : List (Nat × Byte)) (h : Memory.wf s.mem) : Memory.wf (s.storeEach cs).mem := by
  induction cs generalizing s with
  | nil => exact h
  | cons c t ih => exact ih (wf_storeByte _ _ h)

@[simp] theorem wf_writeCells (cs : List (Nat × Byte)) (h : Memory.wf s.mem) : Memory.wf (s.writeCells cs).mem := wf_storeEach cs h
@[simp] theorem wf_writeBytes (a : Nat) (bs : List Byte) (h : Memory.wf s.mem) : Memory.wf (s.writeBytes a bs).mem := wf_writeCells _ h

@[simp] theorem cleanL1_mem (c : Nat) (p : Nat → Bool) : (s.cleanL1 c p).mem = s.mem := rfl
@[simp] theorem noteError_mem (p a n : Nat) : (s.noteError p a n).mem = s.mem := rfl
@[simp] theorem noteCorrected_mem (p : Nat) : (s.noteCorrected p).mem = s.mem := rfl

@[simp] theorem wf_writeBack (d : Dirty) (h : Memory.wf s.mem) : Memory.wf (s.writeBack d).mem := by
  unfold State.writeBack; simp [h]
@[simp] theorem countMoved_mem (p : Nat) (l : List Nat) : (s.countMoved p l).mem = s.mem := rfl
@[simp] theorem wf_flush (p : Part) (q : Dirty → Bool) (h : Memory.wf s.mem) : Memory.wf (s.flush p q).mem := by
  unfold State.flush
  refine wf_foldl (fun s d h => ?_) _ h
  have hb : Memory.wf (((s.badWords d).foldl (fun t w => t.noteError 3 (4 * w) p.id)
      ((s.writeBack d).countMoved p.id [d.sector])).mem) := by
    rw [foldl_mem (fun _ _ => noteError_mem _ _ _)]; simp [h]
  dsimp only
  split
  · exact hb
  · exact hb
@[simp] theorem wf_recallDirty (p : Part) (q : Dirty → Bool) (h : Memory.wf s.mem) : Memory.wf (s.recallDirty p q).mem := by
  unfold State.recallDirty; dsimp only; split <;> exact wf_flush _ _ h
@[simp] theorem wf_dropStale (t : State) (c x : Nat) (h : Memory.wf t.mem) : Memory.wf (s.dropStale t c x).mem := by
  unfold State.dropStale; split <;> exact h
@[simp] theorem wf_recallFrom (p : Part) (c x : Nat) (h : Memory.wf s.mem) : Memory.wf (s.recallFrom p c x).mem :=
  wf_dropStale _ _ _ (wf_recallDirty _ _ h)
@[simp] theorem wf_acquireFlush (p : Part) (c x : Nat) (o : Scope) (h : Memory.wf s.mem) : Memory.wf (s.acquireFlush p c x o).mem :=
  wf_dropStale _ _ _ (wf_recallDirty _ _ h)

/-! ### What leaves memory alone -/

@[simp] theorem take_mem : s.take.2.mem = s.mem := rfl
@[simp] theorem dropClean_mem (p : Clean → Bool) : (s.dropClean p).mem = s.mem := rfl
@[simp] theorem discard_mem (c : Nat) : (s.discard c).mem = s.mem := rfl
@[simp] theorem keepClean_mem (c x v : Nat) : (s.keepClean c x v).mem = s.mem := by unfold State.keepClean; split <;> rfl
@[simp] theorem dropTlb_mem (p a n : Nat) : (s.dropTlb p a n).mem = s.mem := rfl
@[simp] theorem dirtyByte_mem (c w a v g : Nat) (b : Byte) : (s.dirtyByte c w a v g b).mem = s.mem := by unfold State.dirtyByte; split <;> rfl
@[simp] theorem markRelease_mem (c x : Nat) (m : ReleaseMark) : (s.markRelease c x m).mem = s.mem := rfl
@[simp] theorem setSpByte_mem (c : Bool) (b a : Nat) (v : Byte) : (s.setSpByte c b a v).mem = s.mem := by simp [State.setSpByte]

@[simp] theorem writeSp_mem (c : Bool) (b a : Nat) (bs : List Byte) : (s.writeSp c b a bs).mem = s.mem := by
  simp [State.writeSp, foldl_mem]
@[simp] theorem dirtyBytes_mem (c w a : Nat) (l : List (Nat × Nat × Byte)) : (s.dirtyBytes c w a l).mem = s.mem := by
  simp [State.dirtyBytes, foldl_mem]
@[simp] theorem touchPage_mem (p : Part) (d v : Nat) : (s.touchPage p d v).mem = s.mem := by
  unfold State.touchPage
  dsimp only
  split
  · rfl
  · split <;> rfl
  · rfl
@[simp] theorem touchSpan_mem (p : Part) (d v n : Nat) : (s.touchSpan p d v n).mem = s.mem := foldl_mem (fun _ _ => touchPage_mem _ _ _) _
@[simp] theorem finishVolt_mem (c : Nat) (o : VoltOutcome) : (s.finishVolt c o).mem = s.mem := rfl
@[simp] theorem settleVolts_mem : s.settleVolts.mem = s.mem := foldl_mem (fun _ _ => finishVolt_mem _ _) _
@[simp] theorem setTime_mem (t : Nat) : (s.setTime t).mem = s.mem := by simp [State.setTime]
@[simp] theorem reach_mem (t : Nat) : (s.reach t).mem = s.mem := setTime_mem _
@[simp] theorem reachTime_mem (p : Part) (t : Nat) : (s.reachTime p t).mem = s.mem := reach_mem _

/-! ### The grant checker -/

@[simp] theorem onGck_mem (c : Nat) (f : Gck → Gck) : (s.onGck c f).mem = s.mem := rfl
@[simp] theorem freshSram_mem (b : Block) (k : Nat) : (s.freshSram b k).mem = s.mem := rfl
@[simp] theorem grow_mem (w : Wave) (k q : Nat) : (s.grow w k q).mem = s.mem := by
  unfold State.grow
  dsimp only
  split <;> split <;> simp
@[simp] theorem retryFull_mem (c : Nat) : (s.retryFull c).mem = s.mem := rfl
@[simp] theorem settle_mem (c k q : Nat) : (s.settle c k q).mem = s.mem := rfl
@[simp] theorem shrink_mem (w : Wave) (b : Block) (k q : Nat) : (s.shrink w b k q).mem = s.mem := by
  unfold State.shrink; split <;> simp
@[simp] theorem withdraw_mem (c : Nat) (p : Nat → Bool) : (s.withdraw c p).mem = s.mem := rfl
@[simp] theorem dropBlock_mem (b : Block) : (s.dropBlock b).mem = s.mem := by simp [State.dropBlock]
@[simp] theorem testRequest_mem (c : Nat) : (s.testRequest c).mem = s.mem := by
  unfold State.testRequest
  repeat' first | split | simp
@[simp] theorem scanFifo_mem (c : Nat) (o l : List GrantRequest) : (s.scanFifo c o l).mem = s.mem := by
  induction l generalizing s o with
  | nil => simp [State.scanFifo]
  | cons r t ih =>
    unfold State.scanFifo
    repeat' first | split | simp [ih]

/-! ### Faults and kills -/

@[simp] theorem openFault_mem (d p k c o l v : Nat) (y : Party) : (s.openFault d p k c o l v y).mem = s.mem := by
  unfold State.openFault
  repeat' first | split | simp
@[simp] theorem admitFaults_mem (d : Nat) : (s.admitFaults d).mem = s.mem := by
  unfold State.admitFaults
  apply foldl_mem
  intro s x
  split <;> simp
@[simp] theorem closeFaults_mem (p : Party → Bool) : (s.closeFaults p).mem = s.mem := by simp [State.closeFaults, foldl_mem]
@[simp] theorem mapBlocks_mem (f : Block → Block) : (s.mapBlocks f).mem = s.mem := rfl
@[simp] theorem mapEnds_mem (p l e : Nat) (f : Word → Word → Word) : (s.mapEnds p l e f).mem = s.mem := rfl
@[simp] theorem closeChannel_mem (p : Nat) (b : Block) (e : Word) : (s.closeChannel p b e).mem = s.mem := by simp [State.closeChannel]
@[simp] theorem closeSlots_mem (p : Nat) (b : Block) : (s.closeSlots p b).mem = s.mem := by
  unfold State.closeSlots
  split
  · rfl
  · apply foldl_mem; intro s x; split <;> simp
@[simp] theorem faultQueue_mem (p l r a : Nat) : (s.faultQueue p l r a).mem = s.mem := by simp [State.faultQueue]
@[simp] theorem freeEndpoints_mem (p : Nat) (g : Option Nat) : (s.freeEndpoints p g).mem = s.mem := by
  unfold State.freeEndpoints
  split
  · rfl
  · split <;> simp
@[simp] theorem forgetGrid_mem (g : Grid) : (s.forgetGrid g).mem = s.mem := by simp [State.forgetGrid]
@[simp] theorem abandon_mem (b : List Nat) : (s.abandon b).mem = s.mem := by simp [State.abandon]

/-! ### The front end's accesses -/

@[simp] theorem touchReach_mem (p : Part) (d : Nat) (e : Reach) : (s.touchReach p d e).mem = s.mem := by
  unfold State.touchReach
  split
  · rfl
  all_goals split <;> simp

theorem wf_feRead {p : Part} {va n : Nat} {r : List Byte × State} (h : Memory.wf s.mem) (e : s.feRead p va n = .ok r) :
    Memory.wf r.2.mem := by
  unfold State.feRead at e
  cases ha : feAddrs s p va n false with
  | error x => simp [ha, bind, Except.bind] at e
  | ok as_ =>
    simp only [ha, bind, Except.bind] at e
    split at e
    · cases e
    · split at e
      · cases e
      · cases e; exact wf_foldl (fun _ _ h => wf_acquireFlush _ _ _ _ h) _ (by simpa using h)

theorem wf_feWrite {p : Part} {va : Nat} {bs : List Byte} {t : State} (h : Memory.wf s.mem) (e : s.feWrite p va bs = .ok t) :
    Memory.wf t.mem := by
  unfold State.feWrite at e
  cases ha : feAddrs s p va bs.length true with
  | error x => simp [ha, bind, Except.bind] at e
  | ok as_ =>
    simp only [ha, bind, Except.bind] at e
    cases e; simp (maxDischargeDepth := 9) +contextual [wf_foldl, h]

theorem wf_orStatus {p : Part} {a b : Nat} {t : State} (h : Memory.wf s.mem) (e : s.orStatus p a b = .ok t) : Memory.wf t.mem := by
  unfold State.orStatus at e
  cases hr : s.feRead p (a + 8) 4 with
  | error x => simp [hr, bind, Except.bind] at e
  | ok r => exact wf_feWrite (wf_feRead h hr) (by simpa [hr, bind, Except.bind] using e)

@[simp] theorem onRun_mem (p a : Nat) (f : GraphRun → GraphRun) : (s.onRun p a f).mem = s.mem := by simp [State.onRun]
@[simp] theorem wf_markGraph (p a : Nat) (h : Memory.wf s.mem) : Memory.wf (s.markGraph p a).mem := by
  unfold State.markGraph
  split
  · exact h
  · dsimp only
    split
    · rename_i e; simpa using wf_orStatus h e
    · exact h
    · exact h
    · simpa using h

@[simp] theorem wf_sendKill (p : Part) (a : Nat) (r : List Word) (h : Memory.wf s.mem) : Memory.wf (s.sendKill p a r).mem := by
  unfold State.sendKill
  split
  · rename_i e; simpa using wf_feWrite h e
  · simpa using h
  · simpa using h

@[simp] theorem wf_sendKills (h : Memory.wf s.mem) : Memory.wf s.sendKills.mem := by
  unfold State.sendKills
  refine wf_foldl (fun s p h => ?_) _ h
  exact wf_foldl (fun s k h => wf_sendKill _ _ _ h) _ (by simpa using h)

@[simp] theorem wf_writeKillRecord (p : Part) (r : List Word) (h : Memory.wf s.mem) : Memory.wf (s.writeKillRecord p r).mem :=
  wf_sendKill _ _ _ (by simpa using h)

@[simp] theorem wf_killGrid (g l c w : Nat) (k : KillCause) (h : Memory.wf s.mem) : Memory.wf (s.killGrid g l c w k).mem := by
  unfold State.killGrid
  split
  · exact h
  · split
    · exact h
    · dsimp only
      split <;> simp (maxDischargeDepth := 9) [foldl_mem, h]

/-! ### Issue -/

@[simp] theorem wf_killOwn (c : Issue) (k : KillCause) (h : Memory.wf s.mem) : Memory.wf (s.killOwn c k).mem := wf_killGrid _ _ _ _ _ h
@[simp] theorem wf_raise (c : Issue) (t : Trap) (n : Nat) (h : Memory.wf s.mem) : Memory.wf (s.raise c t n).mem := by
  unfold State.raise
  repeat' first | split | simp [h]
@[simp] theorem wf_finish (c : Issue) (x : Fields) (j : List (Nat × Nat)) (h : Memory.wf s.mem) : Memory.wf (s.finish c x j).mem := by
  unfold State.finish
  dsimp only
  split <;> simp [h]
@[simp] theorem hold_mem (c : Issue) : (s.hold c).mem = s.mem := by simp [State.hold]

theorem fits_collective {c : Issue} {k : Effect} (h : Memory.wf s.mem) (hk : Fits (fun t => Memory.wf t.mem) k) :
    Fits (fun t => Memory.wf t.mem) (collective s c k) := by
  unfold collective
  repeat' first | split | simp [h, hk]

/-- An instruction keeps the form when its effect does. -/
theorem keepsForm_issueFull {x : Fields} {k : Issue → Except Stop (State × List (Nat × Nat))} {post : Issue → State → State}
    (h : Memory.wf s.mem) (hk : ∀ c, Fits (fun r => Memory.wf r.1.mem) (k c)) (hp : ∀ c t, Memory.wf t.mem → Memory.wf (post c t).mem) :
    KeepsForm (issueFull s x k post) := by
  unfold issueFull
  split
  · simp
  · rename_i c _
    have hc := hk c
    split
    · rename_i e; rw [e] at hc; exact keepsForm_next.2 (hp _ _ (wf_finish _ _ _ hc))
    · exact keepsForm_next.2 h
    · rename_i e; rw [e] at hc; exact keepsForm_next.2 hc
    · exact keepsForm_next.2 (wf_raise _ _ _ h)

theorem keepsForm_issueJump {x : Fields} {k : Issue → Except Stop (State × List (Nat × Nat))} (h : Memory.wf s.mem)
    (hk : ∀ c, Fits (fun r => Memory.wf r.1.mem) (k c)) : KeepsForm (issueJump s x k) :=
  keepsForm_issueFull h hk (fun _ _ h => h)

theorem keepsForm_issue {x : Fields} {k : Issue → Effect} (h : Memory.wf s.mem) (hk : ∀ c, Fits (fun t => Memory.wf t.mem) (k c)) :
    KeepsForm (issue s x k) :=
  keepsForm_issueJump h (fun c => by simpa using hk c)

end Sys2Proof.Machine
end

