-- ==== Sys2Proof/Laws/FormChecks.lean ====
section
/-! SUPPORT. Memory keeps its canonical form: the checks at issue leave no state of their own, or leave one with the same memory. -/

namespace Sys2Proof.Machine

variable {s : State}

/-! ### Checks that stop with a wait or a trap -/

theorem Plain.ok {α : Type} (a : α) : Plain (.ok a : Except Stop α) := by intro t; simp
theorem Plain.wait {α : Type} : Plain (.error .wait : Except Stop α) := by intro t; simp
theorem Plain.trap {α : Type} (t : Trap) : Plain (.error (.trap t) : Except Stop α) := by intro t; simp
theorem Plain.fault {α : Type} (n d : Nat) : Plain (.error (Machine.fault n d) : Except Stop α) := by intro t; simp [Machine.fault]
theorem Plain.faultAt {α : Type} (n d a : Nat) : Plain (.error (Machine.faultAt n d a) : Except Stop α) := by
  intro t; simp [Machine.faultAt]

theorem Plain.bind {α β : Type} {x : Except Stop α} {f : α → Except Stop β} (hx : Plain x) (hf : ∀ a, Plain (f a)) : Plain (x >>= f) := by
  cases x with
  | ok a => exact hf a
  | error e =>
    intro t h
    exact hx t (by simpa [Bind.bind, Except.bind] using h)

theorem Plain.ite {α : Type} {b : Prop} [Decidable b] {x y : Except Stop α} (hx : Plain x) (hy : Plain y) : Plain (if b then x else y) := by
  split
  · exact hx
  · exact hy

theorem plain_stopIf_fault (b : Bool) (n d : Nat) : Plain (stopIf b (fault n d)) := by
  unfold stopIf; exact .ite (.fault n d) (.ok ())
theorem plain_stopIf_faultAt (b : Bool) (n d a : Nat) : Plain (stopIf b (faultAt n d a)) := by
  unfold stopIf; exact .ite (.faultAt n d a) (.ok ())
theorem plain_stopIf_wait (b : Bool) : Plain (stopIf b .wait) := by
  unfold stopIf; exact .ite .wait (.ok ())

theorem plain_guardUse (c : Issue) (x : Fields) : Plain (c.guardUse x) := plain_stopIf_fault _ _ _

theorem plain_checkEmpty (c : Issue) (rs : List Src) : Plain (checkEmpty s c rs) := by
  induction rs with
  | nil => exact .ok ()
  | cons r t ih => unfold checkEmpty; exact .ite ih (.ite (.fault _ _) .wait)

theorem plain_checkOperands (c : Issue) (rs : List Src) (d : Operand) (n : Nat) : Plain (checkOperands s c rs d n) := by
  unfold checkOperands
  refine .ite (.ok ()) ((plain_stopIf_fault _ _ _).bind (fun _ => (plain_checkEmpty c rs).bind (fun _ => plain_stopIf_wait _)))

theorem plain_checkPoison (c : Issue) (rs : List Src) : Plain (checkPoison s c rs) := plain_stopIf_fault _ _ _

theorem plain_checkAccess (c : Issue) (x : Fields) (rs : List Src) (d : Operand) (n : Nat) : Plain (checkAccess s c x rs d n) := by
  unfold checkAccess
  exact (plain_checkOperands c rs d n).bind (fun _ => (plain_guardUse c x).bind (fun _ => plain_checkPoison c rs))

theorem plain_laneFault (ls : List (Nat × Nat)) (bad : Nat → Bool) (e : Nat → Stop) (he : ∀ a t, e a ≠ .stay t) :
    Plain (laneFault ls bad e) := by
  unfold laneFault
  split
  · intro t h; exact he _ t (by simpa using h)
  · exact .ok ()

theorem fault_ne_stay (n d : Nat) (t : State) : fault n d ≠ .stay t := by simp [fault]
theorem faultAt_ne_stay (n d a : Nat) (t : State) : faultAt n d a ≠ .stay t := by simp [faultAt]

theorem plain_forM {α : Type} {f : α → Except Stop Unit} (hf : ∀ a, Plain (f a)) (l : List α) : Plain (l.forM f) := by
  induction l with
  | nil => exact .ok ()
  | cons a t ih => simp only [List.forM_eq_forM, List.forM_cons]; exact (hf a).bind (fun _ => ih)

theorem plain_checkSides (c : Issue) (n : Nat) (ds : List (Space × List (Nat × Nat))) : Plain (checkSides ds (rangeRows s c n)) := by
  have h : ∀ rows : List RangeRow, (∀ r ∈ rows, ∀ a t, r.2 a ≠ .stay t) → Plain (checkSides ds rows) := by
    intro rows
    induction rows with
    | nil => exact fun _ => .ok ()
    | cons r t ih =>
      intro hr
      exact (plain_forM (fun d => plain_laneFault _ _ _ (hr r (by simp))) ds).bind (fun _ => ih (fun q hq => hr q (by simp [hq])))
  exact h _ (by simp [rangeRows, fault, faultAt])

theorem plain_checkRange (c : Issue) (spc : Space) (n : Nat) (ls : List (Nat × Nat)) : Plain (checkRange s c spc n ls) :=
  plain_checkSides c n _

/-! ### As rules for a computation -/

/-- A plain check gives way to what follows it. -/
theorem fits_plain {P : Unit → Prop} {x : Except Stop Unit} (h : Plain x) : Fits P x ↔ (x = .ok () → P ()) := by
  cases x with
  | ok a => simp
  | error e =>
    cases e with
    | stay t => exact absurd rfl (h t)
    | wait => simp
    | trap t => simp

@[simp] theorem fits_stopIf_fault {P : Unit → Prop} (b : Bool) (n d : Nat) : Fits P (stopIf b (fault n d)) ↔ (b = false → P ()) := by
  unfold stopIf; cases b <;> simp
@[simp] theorem fits_stopIf_faultAt {P : Unit → Prop} (b : Bool) (n d a : Nat) :
    Fits P (stopIf b (faultAt n d a)) ↔ (b = false → P ()) := by
  unfold stopIf; cases b <;> simp
@[simp] theorem fits_stopIf_wait {P : Unit → Prop} (b : Bool) : Fits P (stopIf b .wait) ↔ (b = false → P ()) := by
  unfold stopIf; cases b <;> simp
@[simp] theorem fits_stopIf_stay {P : Unit → Prop} (b : Bool) (t : State) :
    Fits P (stopIf b (.stay t)) ↔ (b = false → P ()) ∧ (b = true → Memory.wf t.mem) := by
  unfold stopIf; cases b <;> simp
@[simp] theorem fits_guardUse {P : Unit → Prop} (c : Issue) (x : Fields) : Fits P (c.guardUse x) ↔ (c.guardUse x = .ok () → P ()) := 
  fits_plain (plain_guardUse c x)
@[simp] theorem fits_checkOperands {P : Unit → Prop} (c : Issue) (rs : List Src) (d : Operand) (n : Nat) :
    Fits P (checkOperands s c rs d n) ↔ (checkOperands s c rs d n = .ok () → P ()) := 
  fits_plain (plain_checkOperands c rs d n)
@[simp] theorem fits_checkPoison {P : Unit → Prop} (c : Issue) (rs : List Src) :
    Fits P (checkPoison s c rs) ↔ (checkPoison s c rs = .ok () → P ()) := 
  fits_plain (plain_checkPoison c rs)
@[simp] theorem fits_checkAccess {P : Unit → Prop} (c : Issue) (x : Fields) (rs : List Src) (d : Operand) (n : Nat) :
    Fits P (checkAccess s c x rs d n) ↔ (checkAccess s c x rs d n = .ok () → P ()) := 
  fits_plain (plain_checkAccess c x rs d n)
@[simp] theorem fits_checkSides {P : Unit → Prop} (c : Issue) (n : Nat) (ds : List (Space × List (Nat × Nat))) :
    Fits P (checkSides ds (rangeRows s c n)) ↔ (checkSides ds (rangeRows s c n) = .ok () → P ()) := fits_plain (plain_checkSides c n ds)
@[simp] theorem fits_checkRange {P : Unit → Prop} (c : Issue) (spc : Space) (n : Nat) (ls : List (Nat × Nat)) :
    Fits P (checkRange s c spc n ls) ↔ (checkRange s c spc n ls = .ok () → P ()) := 
  fits_plain (plain_checkRange c spc n ls)

end Sys2Proof.Machine
end

