-- ==== Sys2Proof/Laws/FormParts.lean ====
section
/-! SUPPORT. Memory keeps its canonical form: the parts that the meanings of instruction words are made of. -/

namespace Sys2Proof.Machine

variable {s : State}

/-! ### Parts that leave memory alone -/

@[simp] theorem addPend_mem (c : Issue) (p : Pend) : (s.addPend c p).mem = s.mem := by simp [State.addPend, State.take]
@[simp] theorem cacheVas_mem (c : Issue) (l : List Nat) : (s.cacheVas c l).mem = s.mem := by
  simp [State.cacheVas, foldl_mem]
@[simp] theorem noteSectors_mem (p : Nat) (l : List Nat) : (noteSectors s p l).mem = s.mem := by
  unfold noteSectors; apply foldl_mem; intro s x; split <;> rfl
@[simp] theorem noteL1_mem (p c : Nat) (l : List Nat) : (noteL1 s p c l).mem = s.mem := by
  unfold noteL1; apply foldl_mem; intro s x; simp
@[simp] theorem noteSpad_mem (p : Nat) (c : Bool) (b a n : Nat) : (noteSpad s p c b a n).mem = s.mem := by
  unfold noteSpad; apply foldl_mem; intro s x; simp
@[simp] theorem makeRequests_mem (c : Issue) (p : Pend) (r : Bool) (n : Nat) : (makeRequests s c p r n).mem = s.mem := by
  unfold makeRequests; apply foldl_mem; intro s x; rfl
@[simp] theorem closeImage_mem (c : Nat) (a b : Bool) : (s.closeImage c a b).mem = s.mem := rfl
@[simp] theorem persistPoint_mem (c : Issue) : (persistPoint c s).mem = s.mem := by simp [persistPoint]
@[simp] theorem setBarrier_mem (g : Grid) (b : Block) (k : Nat) (x : Barrier) : (s.setBarrier g b k x).mem = s.mem := by
  unfold State.setBarrier; split <;> simp
@[simp] theorem barAcquire_mem (c : Issue) (k : Nat) : (barAcquire s c k).mem = s.mem := by unfold barAcquire; split <;> rfl
@[simp] theorem markOpen_mem (g : Grid) (l : Nat) : (s.markOpen g l).mem = s.mem := by
  unfold State.markOpen; dsimp only; repeat' first | split | simp only [State.onGrid_mem, State.onPart_mem]
@[simp] theorem submit_mem (c : Issue) (x : Fields) (k : Nat) (w : Bool) : (submit s c x k w).mem = s.mem := by simp [submit]
@[simp] theorem takeHandle_mem (c : Issue) (x : Fields) (w : Word) (f : Bool) : (takeHandle s c x w f).mem = s.mem := by simp [takeHandle]
@[simp] theorem addCopy_mem (k : Copy) : (s.addCopy k).mem = s.mem := rfl
@[simp] theorem startReceiver_mem (b r n : Nat) : (startReceiver s b r n).mem = s.mem := by simp [startReceiver]
@[simp] theorem startMx_mem (c : Issue) (p : List Word) : (startMx s c p).mem = s.mem := by simp [startMx]
@[simp] theorem writeTile_mem (c : Issue) (o : Space) (p : TileAt) (d : List Byte) : (writeTile s c o p d).mem = s.mem := by
  unfold writeTile
  split
  · simp
  · simp
  · dsimp only
    rw [foldl_mem (fun s q => foldl_mem (fun s m => markRelease_mem _ _ _) _)]
    rw [dirtyBytes_mem, cacheVas_mem]
    rfl

/-! ### Parts that may stop -/

@[simp] theorem fits_uncorrectableAt {α : Type} {P : α → Prop} (c : Issue) (p a : Nat) (h : Memory.wf s.mem) :
    Fits P (.error (uncorrectableAt s c p a) : Except Stop α) := by simp [uncorrectableAt, h]

@[simp] theorem fits_stopIf_uncorrectable {P : Unit → Prop} (b : Bool) (c : Issue) (p a : Nat) (h : Memory.wf s.mem) :
    Fits P (stopIf b (uncorrectableAt s c p a)) ↔ (b = false → P ()) := by
  unfold stopIf; cases b <;> simp [h]

@[simp] theorem fits_walkFault {α : Type} {P : α → Prop} (c : Issue) (v k d : Nat) (h : Memory.wf s.mem) :
    Fits P (.error (walkFault s c v k d) : Except Stop α) := by simp [walkFault, h]

@[simp] theorem fits_translate {P : Nat → Prop} (c : Issue) (v : Nat) (r w : Bool) (h : Memory.wf s.mem) (hp : ∀ a, P a) :
    Fits P (translate s c v r w) := by
  unfold translate park
  repeat' first | split | simp [h, hp]

@[simp] theorem fits_locate {P : Nat × Nat × Nat → Prop} (c : Issue) (o : Space) (l a : Nat) (r w : Bool) (h : Memory.wf s.mem)
    (hp : ∀ a, P a) : Fits P (locate s c o l a r w) := by
  unfold locate
  repeat' first | split | simp [h, hp]

theorem fits_mapM_all {α β : Type} {P : List β → Prop} {f : α → Except Stop β} (l : List α) (hf : ∀ a, Fits (fun _ => True) (f a))
    (hp : ∀ a, P a) : Fits P (l.mapM f) := (fits_mapM hf l).all hp

@[simp] theorem fits_checkCounts {P : Unit → Prop} (w : Wave) (k : Option Nat) (r : BitVec 9) :
    Fits P (checkCounts s w k r) ↔ (checkCounts s w k r = .ok () → P ()) := by
  apply fits_plain
  unfold checkCounts
  refine (plain_stopIf_wait _).bind (fun _ => ?_)
  split
  · exact plain_stopIf_wait _
  · exact .ok ()

@[simp] theorem fits_checkTargets {P : Unit → Prop} (c : Issue) (l : List (Nat × Int)) :
    Fits P (checkTargets c l) ↔ (checkTargets c l = .ok () → P ()) := by
  apply fits_plain
  unfold checkTargets
  split
  · exact .trap _
  · exact .ok ()

@[simp] theorem fits_checkTransfer {P : Unit → Prop} (c : Issue) (x : Fields) (r : List Src) (l : List (Nat × Int)) (hp : P ()) :
    Fits P (checkTransfer s c x r l) := by
  simp [checkTransfer, hp]

theorem fits_releaseFlush {P : State → Prop} (c : Issue) (o : Scope) (h : Memory.wf s.mem) (hp : ∀ t, Memory.wf t.mem → P t) :
    Fits P (releaseFlush s c o) := by
  unfold releaseFlush
  repeat' first | split | simp [h, hp]

theorem fits_spillFrame {P : State → Prop} (c : Issue) (l n : Nat) (e : List Word) (h : Memory.wf s.mem)
    (hp : ∀ t, Memory.wf t.mem → P t) : Fits P (spillFrame s c l n e) := by
  unfold spillFrame
  simp only [fits_bind]
  refine fits_translate c _ _ _ h (fun a => ?_)
  exact (fits_stopIf_wait _).2 (fun _ => hp _ (by simpa using h))

@[simp] theorem fits_fillFrame {P : List (Word × Bool) → Prop} (c : Issue) (l n : Nat) (h : Memory.wf s.mem) (hp : ∀ t, P t) :
    Fits P (fillFrame s c l n) := by
  unfold fillFrame
  simp only [fits_bind]
  exact fits_translate c _ _ _ h (fun a => (fits_stopIf_wait _).2 (fun _ => hp _))

theorem fits_pushReturn {P : State → Prop} (c : Issue) (h : Memory.wf s.mem) (hp : ∀ t, Memory.wf t.mem → P t) :
    Fits P (pushReturn s c) := by
  unfold pushReturn
  simp only [fits_bind, fits_stopIf_fault]
  intro _
  refine (fits_foldlM (fun s l h => fits_spillFrame c _ _ _ h (fun _ h => h)) _ h).mono (fun t ht => hp _ ?_)
  simpa using ht

@[simp] theorem touchFrame_mem (c : Issue) (l n : Nat) : (touchFrame s c l n).mem = s.mem := by
  unfold touchFrame; dsimp only; split <;> simp

theorem plain_checkReturn (c : Issue) (r : List (Nat × List (Word × Bool))) (l : List (Nat × Int)) : Plain (checkReturn c r l) := by
  unfold checkReturn
  refine (plain_stopIf_fault _ _ _).bind (fun _ => Plain.bind ?_ (fun _ => plain_stopIf_fault _ _ _))
  unfold checkTargets
  split
  · exact .trap _
  · exact .ok ()

theorem fits_afterReads {P : Unit → Prop} (c : Issue) {e : Except Stop Unit} (k : Plain e) (h : Memory.wf s.mem) (hp : P ()) :
    Fits P (afterReads s c e) := by
  unfold afterReads
  split
  · simp [h]
  · exact k.fits (fun _ => hp)

@[simp] theorem fits_capture {P : List Word → Prop} (c : Issue) (x : Fields) (h : Memory.wf s.mem) (hp : ∀ l, P l) : Fits P (capture s c x) := by
  unfold capture
  split
  · exact hp _
  · simp [h, hp]

/-! ### More checks -/

theorem plain_observe (t : Tag) : Plain (observe t) := by
  unfold observe; split
  · exact .ok ()
  · exact .fault _ _
  · exact .faultAt _ _ _

theorem plain_checkSlot (c : Issue) (x : Fields) (r : List Src) (n : Nat) : Plain (checkSlot s c x r n) := by
  unfold checkSlot
  exact (plain_checkOperands _ _ _ _).bind (fun _ => (plain_checkPoison _ _).bind (fun _ => plain_stopIf_fault _ _ _))

theorem plain_checkSlotRank (c : Issue) (x : Fields) : Plain (checkSlotRank s c x) := plain_stopIf_fault _ _ _
theorem plain_checkLevel (c : Issue) : Plain (checkLevel c) := plain_stopIf_fault _ _ _
theorem plain_checkCr (c : Issue) (x : Fields) : Plain (checkCr s c x) := plain_stopIf_fault _ _ _
theorem plain_checkMember (c : Issue) (k : Nat) : Plain (checkMember c k) := plain_stopIf_fault _ _ _

theorem plain_checkTile (c : Issue) (o : Space) (a n : Nat) : Plain (checkTile s c o a n) := by
  unfold checkTile
  exact (plain_stopIf_faultAt _ _ _ _).bind (fun _ => (plain_stopIf_faultAt _ _ _ _).bind (fun _ =>
    (plain_stopIf_fault _ _ _).bind (fun _ => plain_stopIf_faultAt _ _ _ _)))

theorem plain_checkSide (c : Issue) (pb : List Word) (d : Side) : Plain (checkSide s c pb d) := by
  unfold checkSide; dsimp only; split <;> exact plain_stopIf_fault _ _ _
theorem plain_checkScale (c : Issue) (pb : List Word) (d : Side) : Plain (checkScale s c pb d) := plain_stopIf_fault _ _ _

theorem plain_checkBlock (c : Issue) (pb : List Word) : Plain (checkBlock s c pb) := by
  unfold checkBlock
  dsimp only
  repeat' first
    | exact plain_stopIf_fault _ _ _
    | exact plain_checkSide _ _ _
    | exact plain_checkScale _ _ _
    | exact .fault _ _
    | exact .ok _
    | refine Plain.bind ?_ (fun _ => ?_)
    | split

theorem plain_selEmpty (c : Issue) (x : Fields) (n : Nat) : Plain (selEmpty s c x n) := by
  have stop : ∀ r : Src, Plain (.error (if r.trap then fault Cause.emptyRead r.place else Stop.wait) : Except Stop Unit) := by
    intro r; split
    · exact .fault _ _
    · exact .wait
  unfold selEmpty
  dsimp only
  exact .ite (stop _) (.ite (stop _) (.ok ()))

theorem plain_cvtfCheck (c : Issue) (x : Fields) (p : Nat) : Plain (cvtfCheck c x p) := by
  unfold cvtfCheck
  exact (plain_stopIf_fault _ _ _).bind (fun _ => (plain_stopIf_fault _ _ _).bind (fun _ => plain_stopIf_fault _ _ _))

@[simp] theorem fits_laneFault_fault {P : Unit → Prop} (l : List (Nat × Nat)) (bad : Nat → Bool) (n d : Nat) :
    Fits P (laneFault l bad (fun _ => fault n d)) ↔ (laneFault l bad (fun _ => fault n d) = .ok () → P ()) :=
  fits_plain (plain_laneFault _ _ _ (fun _ _ => fault_ne_stay _ _ _))
@[simp] theorem fits_laneFault_faultAt {P : Unit → Prop} (l : List (Nat × Nat)) (bad : Nat → Bool) (n d : Nat) :
    Fits P (laneFault l bad (faultAt n d)) ↔ (laneFault l bad (faultAt n d) = .ok () → P ()) :=
  fits_plain (plain_laneFault _ _ _ (fun _ _ => faultAt_ne_stay _ _ _ _))
@[simp] theorem fits_observe {P : Unit → Prop} (t : Tag) : Fits P (observe t) ↔ (observe t = .ok () → P ()) := fits_plain (plain_observe t)
@[simp] theorem fits_observeAll {P : Unit → Prop} (b : Block) (l : List Nat) :
    Fits P (l.forM (fun n => observe (b.tag n))) ↔ (l.forM (fun n => observe (b.tag n)) = .ok () → P ()) :=
  fits_plain (plain_forM (fun _ => plain_observe _) l)
@[simp] theorem fits_checkSlot {P : Unit → Prop} (c : Issue) (x : Fields) (r : List Src) (n : Nat) :
    Fits P (checkSlot s c x r n) ↔ (checkSlot s c x r n = .ok () → P ()) := fits_plain (plain_checkSlot c x r n)
@[simp] theorem fits_checkSlotRank {P : Unit → Prop} (c : Issue) (x : Fields) :
    Fits P (checkSlotRank s c x) ↔ (checkSlotRank s c x = .ok () → P ()) := fits_plain (plain_checkSlotRank c x)
@[simp] theorem fits_checkLevel {P : Unit → Prop} (c : Issue) : Fits P (checkLevel c) ↔ (checkLevel c = .ok () → P ()) :=
  fits_plain (plain_checkLevel c)
@[simp] theorem fits_checkCr {P : Unit → Prop} (c : Issue) (x : Fields) : Fits P (checkCr s c x) ↔ (checkCr s c x = .ok () → P ()) :=
  fits_plain (plain_checkCr c x)
@[simp] theorem fits_checkMember {P : Unit → Prop} (c : Issue) (k : Nat) : Fits P (checkMember c k) ↔ (checkMember c k = .ok () → P ()) :=
  fits_plain (plain_checkMember c k)
@[simp] theorem fits_checkBlock {P : Unit → Prop} (c : Issue) (pb : List Word) :
    Fits P (checkBlock s c pb) ↔ (checkBlock s c pb = .ok () → P ()) := fits_plain (plain_checkBlock c pb)
@[simp] theorem fits_selEmpty {P : Unit → Prop} (c : Issue) (x : Fields) (n : Nat) :
    Fits P (selEmpty s c x n) ↔ (selEmpty s c x n = .ok () → P ()) := fits_plain (plain_selEmpty c x n)
@[simp] theorem fits_cvtfCheck {P : Unit → Prop} (c : Issue) (x : Fields) (p : Nat) :
    Fits P (cvtfCheck c x p) ↔ (cvtfCheck c x p = .ok () → P ()) := fits_plain (plain_cvtfCheck c x p)
@[simp] theorem fits_checkTile {P : Unit → Prop} (c : Issue) (o : Space) (a n : Nat) :
    Fits P (checkTile s c o a n) ↔ (checkTile s c o a n = .ok () → P ()) := fits_plain (plain_checkTile c o a n)

/-! ### More parts that may stop -/

theorem fits_forM {α : Type} {f : α → Except Stop Unit} (hf : ∀ a, Fits (fun _ => True) (f a)) (l : List α) :
    Fits (fun _ => True) (l.forM f) := by
  induction l with
  | nil => trivial
  | cons a t ih => simp only [List.forM_eq_forM, List.forM_cons, fits_bind] at *; exact (hf a).mono (fun _ _ => ih)

theorem fits_checkSpan {P : Unit → Prop} (c : Issue) (b n : Nat) (w : Bool) (h : Memory.wf s.mem) (hp : P ()) :
    Fits P (checkSpan s c b n w) := by
  unfold checkSpan
  simp only [fits_bind, fits_stopIf_faultAt]
  intro _ _
  refine (fits_forM (fun i => ?_) _).all (fun _ => hp)
  split
  · trivial
  · rw [fits_map]; exact fits_translate c _ _ _ h (fun _ => trivial)

theorem fits_locateTile {P : TileAt → Prop} (c : Issue) (o : Space) (a n : Nat) (r w : Bool) (h : Memory.wf s.mem) (hp : ∀ t, P t) :
    Fits P (locateTile s c o a n r w) := by
  unfold locateTile translateSpan
  simp only [fits_bind, fits_checkTile]
  intro _
  split
  · rw [fits_map]; exact fits_mapM_all _ (fun i => fits_translate c _ _ _ h (fun _ => trivial)) (fun _ => hp _)
  · exact hp _
  · exact hp _

theorem fits_arenaPhys {P : Nat → Prop} (c : Issue) (i : Nat) (h : Memory.wf s.mem) (hp : ∀ t, P t) : Fits P (arenaPhys s c i) := by
  unfold arenaPhys
  dsimp only
  split
  · unfold park; simpa using h
  · exact fits_translate c _ _ _ h hp

theorem fits_filledStack {P : List (Word × Bool) → Prop} (c : Issue) (l : Nat) (h : Memory.wf s.mem) (hp : ∀ t, P t) :
    Fits P (filledStack s c l) := by
  unfold filledStack
  dsimp only
  split
  · exact fits_fillFrame c _ _ h hp
  · exact hp _

theorem fits_fenceRelease {P : State → Prop} (c : Issue) (r : Option (List Range)) (o : Scope) (h : Memory.wf s.mem)
    (hp : ∀ t, Memory.wf t.mem → P t) : Fits P (fenceRelease s c r o) := by
  unfold fenceRelease
  simp only [fits_bind, fits_stopIf_wait, fits_stopIf_stay, fits_ok]
  refine ⟨fun _ _ => hp _ ?_, fun _ => ?_⟩ <;> split <;> simp [h]

theorem fits_acquireSeen {P : State → Prop} (c : Issue) (o : Scope) (p : Seen → Bool) (g : Clean → Bool) (h : Memory.wf s.mem)
    (hp : ∀ t, Memory.wf t.mem → P t) : Fits P (acquireSeen s c o p g) := by
  unfold acquireSeen
  simp only [fits_bind, fits_stopIf_wait, fits_ok]
  intro _
  refine hp _ ?_
  split <;> simp [h]

theorem fits_fenceAcquire {P : State → Prop} (c : Issue) (r : Option (List Range)) (o : Scope) (h : Memory.wf s.mem)
    (hp : ∀ t, Memory.wf t.mem → P t) : Fits P (fenceAcquire s c r o) := fits_acquireSeen c o _ _ h hp

theorem fits_acquireAwaited (c : Issue) (k n : Nat) (h : Memory.wf s.mem) : Fits (fun t => Memory.wf t.mem) (acquireAwaited s c k n) :=
  fits_foldlM (fun _ o h => fits_acquireSeen c o _ _ h (fun _ h => h)) _ h

theorem fits_arrival {P : State × Word → Prop} (c : Issue) (k : Nat) (h : Memory.wf s.mem) (hp : ∀ t, Memory.wf t.1.mem → P t) :
    Fits P (arrival s c k) := by
  unfold arrival
  simp only [fits_bind, fits_stopIf_wait]
  intro _
  exact fits_releaseFlush c _ h (fun t ht => hp _ (by simpa using ht))

@[simp] theorem enqueue_ok (p g : Nat) (r : List (Nat × List Word)) (h : Memory.wf s.mem) : Memory.wf (s.enqueue p g r).mem := by
  unfold State.enqueue
  refine wf_foldl (fun s x h => ?_) _ h
  split <;> simp [h]

theorem plain_checkSpawn (c : Issue) (x : Fields) : Plain (checkSpawn s c x) := by
  unfold checkSpawn
  refine (plain_guardUse c x).bind (fun _ => (plain_checkOperands _ _ _ _).bind (fun _ => (plain_checkPoison _ _).bind (fun _ => ?_)))
  dsimp only
  split
  · exact .fault _ _
  · exact .ok ()

theorem fits_spawnRest (c : Issue) (x : Fields) (h : Memory.wf s.mem) : Fits (fun t => Memory.wf t.mem) (spawnRest s c x) := by
  unfold spawnRest
  dsimp only
  rw [fits_bind]
  refine fits_mapM_all _ (fun l => ?_) (fun a => ?_)
  · rw [fits_map]; exact fits_arenaPhys c _ h (fun _ => trivial)
  · simp only [fits_bind, fits_stopIf_wait, fits_stopIf_stay, fits_ok, State.own_mem]
    exact fun _ => ⟨fun _ => enqueue_ok _ _ _ (by simpa using h), fun _ => enqueue_ok _ _ _ (by simpa using h)⟩

end Sys2Proof.Machine
end

