-- ==== Sys2Proof/Laws/FormIsa.lean ====
section
/-! SUPPORT. Memory keeps its canonical form: one lemma for the meaning of every instruction word. -/

namespace Sys2Proof.Machine

variable {s : State}

theorem form_alu {x : Fields} (h : Memory.wf s.mem) (sh : Shape) (f : Args → Result) : KeepsForm (alu s x sh f) :=
  keepsForm_issue h (fun c => by simp [h])

/-- Locating the lanes of an access. -/
theorem fits_left {α : Type} {P : List Access → Prop} (c : Issue) (o : Space) (g : α → Nat) (f : α → Nat) (e : α → Nat × Nat × Nat → Access) (r w : Bool)
    (l : List α) (h : Memory.wf s.mem) (hp : ∀ a, P a) :
    Fits P (l.mapM (fun a => (locate s c o (g a) (f a) r w).map (e a))) :=
  fits_mapM_all l (fun a => by rw [fits_map]; exact fits_locate c _ _ _ _ _ h (fun _ => trivial)) hp

theorem form_execBra (x : Fields) (h : Memory.wf s.mem) : KeepsForm (execBra x s) :=
  keepsForm_issueJump h (fun c => by simp [h])
theorem form_execBrx (x : Fields) (h : Memory.wf s.mem) : KeepsForm (execBrx x s) :=
  keepsForm_issueJump h (fun c => by simp [h])
theorem form_execCall (x : Fields) (h : Memory.wf s.mem) : KeepsForm (execCall x s) :=
  keepsForm_issueJump h (fun c => by
    simp only [fits_bind]
    exact fits_checkTransfer _ _ _ _ (fits_pushReturn c h (fun t ht => ht)))
theorem form_execCallx (x : Fields) (h : Memory.wf s.mem) : KeepsForm (execCallx x s) :=
  keepsForm_issueJump h (fun c => by
    simp only [fits_bind]
    exact fits_checkTransfer _ _ _ _ (fits_pushReturn c h (fun t ht => ht)))
theorem form_execRet (x : Fields) (h : Memory.wf s.mem) : KeepsForm (execRet x s) :=
  keepsForm_issueJump h (fun c => by
    simp only [fits_bind, fits_guardUse]
    intro _
    refine fits_mapM_all _ (fun l => ?_) (fun a => ?_)
    · rw [fits_map]; exact fits_filledStack c l h (fun _ => trivial)
    · refine fits_afterReads c (plain_checkReturn c _ _) (by simp [foldl_mem, h]) ?_
      simp [foldl_mem, h])
theorem form_execReord (x : Fields) (h : Memory.wf s.mem) : KeepsForm (execReord x s) :=
  keepsForm_issue h (fun c => fits_collective h (by
    simp only [fits_bind, fits_stopIf_fault]
    intro _
    exact (fits_plain (plain_checkEmpty c _)).2 (fun _ => by simp [h])))
theorem form_execLd (x : Fields) (h : Memory.wf s.mem) : KeepsForm (execLd x s) :=
  keepsForm_issue h (fun c => by
    simp only [fits_bind, fits_checkAccess]
    intro _
    split
    · exact h
    · simp only [fits_bind, fits_checkRange]
      intro _
      refine fits_left c _ _ _ _ _ _ _ h (fun a => ?_)
      simp [h])
theorem form_execSt (x : Fields) (h : Memory.wf s.mem) : KeepsForm (execSt x s) :=
  keepsForm_issue h (fun c => by
    simp only [fits_bind, fits_checkAccess]
    intro _
    split
    · exact h
    · simp only [fits_bind, fits_checkRange]
      intro _
      refine fits_mapM_all _ (fun a => ?_) (fun a => ?_)
      · rw [fits_map]; exact fits_locate c _ _ _ _ _ h (fun _ => trivial)
      · simp [h])
theorem form_execCpl (x : Fields) (h : Memory.wf s.mem) : KeepsForm (execCpl x s) :=
  keepsForm_issue h (fun c => by
    simp only [fits_bind, fits_checkAccess]
    intro _
    split
    · exact h
    · simp only [fits_bind, fits_checkSides]
      intro _
      refine fits_mapM_all _ (fun l => ?_) (fun a => ?_)
      · simp only [fits_bind]
        exact fits_locate c _ _ _ _ _ h (fun _ => fits_locate c _ _ _ _ _ h (fun _ => trivial))
      · simp [h])
theorem form_atomic {op : Op} {n : Nat} {r : Bool} {x : Fields} {a b d : Fields → Nat → Src} (h : Memory.wf s.mem) :
    KeepsForm (atomic op n r x a b d s) :=
  keepsForm_issue h (fun c => by
    simp only [fits_bind, fits_checkAccess]
    intro _
    split
    · exact h
    · simp only [fits_bind, fits_checkRange]
      intro _
      refine fits_mapM_all _ (fun a => ?_) (fun a => ?_)
      · rw [fits_map]; exact fits_locate c _ _ _ _ _ h (fun _ => trivial)
      · simp only [fits_stopIf_wait, fits_checkCounts]
        intro _ _ _
        split
        · rw [fits_bind]; refine fits_releaseFlush c _ h (fun t ht => ?_); simpa using ht
        · simpa using h)
theorem form_execFence (x : Fields) (h : Memory.wf s.mem) : KeepsForm (execFence x s) :=
  keepsForm_issue h (fun c => by
    have acq : ∀ t : State, Memory.wf t.mem → Fits (fun t => Memory.wf t.mem)
        (if x.order == .acq || x.order == .ar then fenceAcquire t c (maskRanges c.wave x.a) x.scope else .ok t) := by
      intro t ht
      split
      · exact fits_fenceAcquire c _ _ ht (fun _ h => h)
      · exact ht
    simp only [fits_bind, fits_guardUse]
    intro _
    split
    · exact h
    · simp only [fits_bind, fits_stopIf_wait]
      intro _
      split
      · exact fits_bind.2 (fits_fenceRelease c _ _ h acq)
      · exact acq s h)

theorem form_persistFence {x : Fields} {w : Issue → Bool} {q : Issue → Dirty → Bool} (h : Memory.wf s.mem) :
    KeepsForm (persistFence s x w q) :=
  keepsForm_issueFull h (fun c => by
    simp only [fits_bind, fits_guardUse]
    intro _
    split
    · exact h
    · simp [h]) (fun c t ht => by split <;> simp [ht])

theorem form_execCpt (x : Fields) (h : Memory.wf s.mem) : KeepsForm (execCpt x s) :=
  keepsForm_issue h (fun c => by
    simp only [fits_bind, fits_checkOperands, fits_guardUse, fits_checkPoison]
    intro _ _ _
    split
    · exact h
    · simp only [fits_bind, fits_stopIf_fault]
      intro _
      split
      · trivial
      · simp only [fits_bind, fits_stopIf_fault, fits_stopIf_faultAt, fits_stopIf_wait]
        intro _ _ _
        refine fits_checkSpan c _ _ _ h ?_
        simp [h])
theorem form_execCpm (x : Fields) (h : Memory.wf s.mem) : KeepsForm (execCpm x s) :=
  keepsForm_issue h (fun c => by
    simp only [fits_bind, fits_checkOperands, fits_guardUse, fits_checkPoison]
    intro _ _ _
    split
    · exact h
    · simp only [fits_bind, fits_stopIf_fault]
      intro _
      split
      · trivial
      · simp only [fits_bind, fits_stopIf_faultAt]
        intro _
        split
        · trivial
        · simp only [fits_bind, fits_stopIf_fault, fits_stopIf_wait]
          intro _ _
          refine fits_checkSpan c _ _ _ h ?_
          simp only [fits_checkCounts, fits_ok, addCopy_mem]
          intro _
          rw [foldl_mem (fun s b => startReceiver_mem _ _ _)]
          simpa using h)
theorem form_execAcst (x : Fields) (h : Memory.wf s.mem) : KeepsForm (execAcst x s) :=
  keepsForm_issue h (fun c => by
    simp only [fits_bind, fits_checkAccess]
    intro _
    split
    · exact h
    · simp only [fits_bind, fits_checkSlotRank]
      intro _
      refine fits_locateTile c _ _ _ _ _ h (fun p => ?_)
      simp [h])
theorem form_execAcld (x : Fields) (h : Memory.wf s.mem) : KeepsForm (execAcld x s) :=
  keepsForm_issue h (fun c => by
    simp only [fits_bind, fits_checkAccess]
    intro _
    split
    · exact h
    · simp only [fits_bind, fits_checkSlotRank]
      intro _
      refine fits_locateTile c _ _ _ _ _ h (fun p => ?_)
      simp only [fits_stopIf_wait, fits_checkCounts, fits_ok, State.ownBlock_mem]
      intro _ _
      split <;> simpa using h)
theorem form_execBara (x : Fields) (h : Memory.wf s.mem) : KeepsForm (execBara x s) :=
  keepsForm_issue h (fun c => by
    dsimp only
    split
    · simp only [fits_bind, fits_ok]; exact fits_collective h h
    · simp only [fits_bind, fits_checkMember]
      intro _
      refine fits_collective h ?_
      simp only [fits_bind, fits_checkOperands]
      intro _
      exact fits_arrival c _ h (fun t ht => by simpa using ht))

theorem form_execOpenGate (x : Fields) (h : Memory.wf s.mem) : KeepsForm (execOpenGate x s) :=
  keepsForm_issue h (fun c => by
    split
    · exact h
    · simp only [fits_bind, fits_stopIf_wait]
      intro _
      refine fits_releaseFlush c _ h (fun t ht => ?_)
      rw [fits_ok]
      split
      · rw [State.ownBlock_mem]; exact ht
      · rw [markOpen_mem, State.ownBlock_mem]; exact ht)

theorem fits_acquireNew (c : Issue) (x : Fields) (b : Bool) (k : Nat) (p q r : Bool) (h : Memory.wf s.mem) :
    Fits (fun t => Memory.wf t.mem) (do
      stopIf p .wait
      stopIf q .wait
      stopIf r .wait
      .error (.stay (submit s c x k b)) : Effect) := by
  simp [h]

theorem form_acquire {b : Bool} {k : Nat} {x : Fields} (h : Memory.wf s.mem) : KeepsForm (acquire b k x s) := by
  refine keepsForm_issue h (fun c => ?_)
  by_cases hc : c.active.isEmpty
  · rw [if_pos hc]; exact h
  · rw [if_neg hc]
    refine fits_bind.2 ((fits_checkOperands _ _ _ _).2 (fun _ => fits_bind.2 ((fits_checkPoison _ _).2 (fun _ => ?_))))
    match c.wave.wait with
    | some (.granted _) => exact show Memory.wf (takeHandle s c x _ _).mem by rw [takeHandle_mem]; exact h
    | some (.deferred _) => exact show Memory.wf (takeHandle s c x _ _).mem by rw [takeHandle_mem]; exact h
    | some .exceeded => trivial
    | some .grant => trivial
    | some .fifoFull => trivial
    | some (.spawning _) => exact fits_acquireNew c x b k _ _ _ h
    | some (.barrier ..) => exact fits_acquireNew c x b k _ _ _ h
    | some (.deadline ..) => exact fits_acquireNew c x b k _ _ _ h
    | some (.regroup ..) => exact fits_acquireNew c x b k _ _ _ h
    | some (.matrix _) => exact fits_acquireNew c x b k _ _ _ h
    | none => exact fits_acquireNew c x b k _ _ _ h
theorem form_execChsend (x : Fields) (h : Memory.wf s.mem) : KeepsForm (execChsend x s) :=
  keepsForm_issue h (fun c => by
    simp only [fits_bind, fits_guardUse]
    intro _
    split
    · exact h
    · simp only [fits_bind, fits_checkSlot, channelFault, fits_stopIf_fault, fits_stopIf_wait]
      intro _ _ _ _ _
      refine fits_releaseFlush c _ h (fun t ht => ?_)
      simpa using ht)
theorem form_execChrecv (x : Fields) (h : Memory.wf s.mem) : KeepsForm (execChrecv x s) :=
  keepsForm_issue h (fun c => by
    simp only [fits_bind, fits_guardUse]
    intro _
    split
    · exact h
    · simp only [fits_bind, fits_checkSlot, channelFault, fits_stopIf_fault, fits_stopIf_wait]
      intro _ _ _
      simpa using h)
theorem form_execTspawn (x : Fields) (h : Memory.wf s.mem) : KeepsForm (execTspawn x s) :=
  keepsForm_issue h (fun c => by
    have rest : Fits (fun t => Memory.wf t.mem) (if c.active.isEmpty = true then .ok s else spawnRest s c x) := by
      split
      · exact h
      · exact fits_spawnRest c x h
    dsimp only
    split
    · exact fits_bind.2 ((fits_plain (plain_checkSpawn c x)).2 (fun _ => rest))
    · exact rest)

theorem form_execEret (x : Fields) (h : Memory.wf s.mem) : KeepsForm (execEret x s) :=
  keepsForm_issueFull h (fun c => by
    simp only [fits_bind, fits_checkLevel]
    intro _
    refine (fits_collective h ?_).mono (fun t ht => ht)
    repeat' first | split | simp [h]) (fun c t ht => by split <;> simp [ht])

theorem form_execBars (x : Fields) (h : Memory.wf s.mem) : KeepsForm (execBars x s) :=
  keepsForm_issue h (fun c => by
    dsimp only
    split
    · simp only [fits_bind, fits_ok]; exact fits_collective h (by simp_all)
    · simp only [fits_bind, fits_checkMember]
      intro _
      refine fits_collective h ?_
      split
      · simpa using h
      · split
        · split <;> simp [h]
        · simp only [fits_bind]
          refine fits_arrival c _ h (fun t ht => ?_)
          split <;> simpa using ht)

theorem form_execNop (x : Fields) (h : Memory.wf s.mem) : KeepsForm (execNop x s) := by
  unfold execNop
  refine keepsForm_issue h (fun c => ?_)
  simp (maxDischargeDepth := 9) [h]
theorem form_execMov (x : Fields) (h : Memory.wf s.mem) : KeepsForm (execMov x s) := form_alu h _ _
theorem form_execMovsr (x : Fields) (h : Memory.wf s.mem) : KeepsForm (execMovsr x s) := by
  unfold execMovsr
  refine keepsForm_issue h (fun c => ?_)
  repeat' first | split | simp (maxDischargeDepth := 9) [h]
theorem form_execIadd (x : Fields) (h : Memory.wf s.mem) : KeepsForm (execIadd x s) := form_alu h _ _
theorem form_execIsub (x : Fields) (h : Memory.wf s.mem) : KeepsForm (execIsub x s) := form_alu h _ _
theorem form_execImul (x : Fields) (h : Memory.wf s.mem) : KeepsForm (execImul x s) := form_alu h _ _
theorem form_execImulh (x : Fields) (h : Memory.wf s.mem) : KeepsForm (execImulh x s) := form_alu h _ _
theorem form_execImad (x : Fields) (h : Memory.wf s.mem) : KeepsForm (execImad x s) := form_alu h _ _
theorem form_execImnxMin (x : Fields) (h : Memory.wf s.mem) : KeepsForm (execImnxMin x s) := form_alu h _ _
theorem form_execImnxMax (x : Fields) (h : Memory.wf s.mem) : KeepsForm (execImnxMax x s) := form_alu h _ _
theorem form_execIabnAbs (x : Fields) (h : Memory.wf s.mem) : KeepsForm (execIabnAbs x s) := form_alu h _ _
theorem form_execIabnNeg (x : Fields) (h : Memory.wf s.mem) : KeepsForm (execIabnNeg x s) := form_alu h _ _
theorem form_execIadd64 (x : Fields) (h : Memory.wf s.mem) : KeepsForm (execIadd64 x s) := form_alu h _ _
theorem form_execIsub64 (x : Fields) (h : Memory.wf s.mem) : KeepsForm (execIsub64 x s) := form_alu h _ _
theorem form_execLea (x : Fields) (h : Memory.wf s.mem) : KeepsForm (execLea x s) := form_alu h _ _
theorem form_execLogAnd (x : Fields) (h : Memory.wf s.mem) : KeepsForm (execLogAnd x s) := form_alu h _ _
theorem form_execLogOr (x : Fields) (h : Memory.wf s.mem) : KeepsForm (execLogOr x s) := form_alu h _ _
theorem form_execLogXor (x : Fields) (h : Memory.wf s.mem) : KeepsForm (execLogXor x s) := form_alu h _ _
theorem form_execLogAndn (x : Fields) (h : Memory.wf s.mem) : KeepsForm (execLogAndn x s) := form_alu h _ _
theorem form_execTern (x : Fields) (h : Memory.wf s.mem) : KeepsForm (execTern x s) := form_alu h _ _
theorem form_execNot (x : Fields) (h : Memory.wf s.mem) : KeepsForm (execNot x s) := form_alu h _ _
theorem form_execShShl (x : Fields) (h : Memory.wf s.mem) : KeepsForm (execShShl x s) := form_alu h _ _
theorem form_execShShr (x : Fields) (h : Memory.wf s.mem) : KeepsForm (execShShr x s) := form_alu h _ _
theorem form_execShSar (x : Fields) (h : Memory.wf s.mem) : KeepsForm (execShSar x s) := form_alu h _ _
theorem form_execShRot (x : Fields) (h : Memory.wf s.mem) : KeepsForm (execShRot x s) := form_alu h _ _
theorem form_execDshr (x : Fields) (h : Memory.wf s.mem) : KeepsForm (execDshr x s) := form_alu h _ _
theorem form_execBfx (x : Fields) (h : Memory.wf s.mem) : KeepsForm (execBfx x s) := form_alu h _ _
theorem form_execBfi (x : Fields) (h : Memory.wf s.mem) : KeepsForm (execBfi x s) := form_alu h _ _
theorem form_execPopc (x : Fields) (h : Memory.wf s.mem) : KeepsForm (execPopc x s) := form_alu h _ _
theorem form_execClz (x : Fields) (h : Memory.wf s.mem) : KeepsForm (execClz x s) := form_alu h _ _
theorem form_execBrev (x : Fields) (h : Memory.wf s.mem) : KeepsForm (execBrev x s) := form_alu h _ _
theorem form_execBytx (x : Fields) (h : Memory.wf s.mem) : KeepsForm (execBytx x s) := form_alu h _ _
theorem form_execIcmp (cond : Fin 10) (x : Fields) (h : Memory.wf s.mem) : KeepsForm (execIcmp cond x s) := form_alu h _ _
theorem form_execIcmp64 (cond : Fin 10) (x : Fields) (h : Memory.wf s.mem) : KeepsForm (execIcmp64 cond x s) := form_alu h _ _
theorem form_execFcmp (cond : Fin 14) (x : Fields) (h : Memory.wf s.mem) : KeepsForm (execFcmp cond x s) := form_alu h _ _
theorem form_execPlopAnd (x : Fields) (h : Memory.wf s.mem) : KeepsForm (execPlopAnd x s) := form_alu h _ _
theorem form_execPlopOr (x : Fields) (h : Memory.wf s.mem) : KeepsForm (execPlopOr x s) := form_alu h _ _
theorem form_execPlopXor (x : Fields) (h : Memory.wf s.mem) : KeepsForm (execPlopXor x s) := form_alu h _ _
theorem form_execPlopAndn (x : Fields) (h : Memory.wf s.mem) : KeepsForm (execPlopAndn x s) := form_alu h _ _
theorem form_execSel (x : Fields) (h : Memory.wf s.mem) : KeepsForm (execSel x s) := by
  unfold execSel
  refine keepsForm_issue h (fun c => ?_)
  repeat' first | split | simp (maxDischargeDepth := 9) [h]
theorem form_execPmov (x : Fields) (h : Memory.wf s.mem) : KeepsForm (execPmov x s) := by
  unfold execPmov
  refine keepsForm_issue h (fun c => ?_)
  simp (maxDischargeDepth := 9) [h]
theorem form_execFclass (x : Fields) (h : Memory.wf s.mem) : KeepsForm (execFclass x s) := form_alu h _ _
theorem form_execExit (x : Fields) (h : Memory.wf s.mem) : KeepsForm (execExit x s) := by
  unfold execExit
  refine keepsForm_issue h (fun c => ?_)
  repeat' first | split | simp (maxDischargeDepth := 9) [h]
theorem form_execYield (x : Fields) (h : Memory.wf s.mem) : KeepsForm (execYield x s) := by
  unfold execYield
  refine keepsForm_issue h (fun c => ?_)
  repeat' first | split | simp (maxDischargeDepth := 9) [h]
theorem form_execTrap (x : Fields) (h : Memory.wf s.mem) : KeepsForm (execTrap x s) := by
  unfold execTrap
  refine keepsForm_issue h (fun c => ?_)
  repeat' first | split | simp (maxDischargeDepth := 9) [h]
theorem form_execBpt (x : Fields) (h : Memory.wf s.mem) : KeepsForm (execBpt x s) := by
  unfold execBpt
  refine keepsForm_issue h (fun c => ?_)
  repeat' first | split | simp (maxDischargeDepth := 9) [h]
theorem form_execFadd (x : Fields) (h : Memory.wf s.mem) : KeepsForm (execFadd x s) := form_alu h _ _
theorem form_execFsub (x : Fields) (h : Memory.wf s.mem) : KeepsForm (execFsub x s) := form_alu h _ _
theorem form_execFmul (x : Fields) (h : Memory.wf s.mem) : KeepsForm (execFmul x s) := form_alu h _ _
theorem form_execFfma (x : Fields) (h : Memory.wf s.mem) : KeepsForm (execFfma x s) := form_alu h _ _
theorem form_execFmnxMin (x : Fields) (h : Memory.wf s.mem) : KeepsForm (execFmnxMin x s) := form_alu h _ _
theorem form_execFmnxMax (x : Fields) (h : Memory.wf s.mem) : KeepsForm (execFmnxMax x s) := form_alu h _ _
theorem form_execPkadd (x : Fields) (h : Memory.wf s.mem) : KeepsForm (execPkadd x s) := form_alu h _ _
theorem form_execPkmul (x : Fields) (h : Memory.wf s.mem) : KeepsForm (execPkmul x s) := form_alu h _ _
theorem form_execPkfma (x : Fields) (h : Memory.wf s.mem) : KeepsForm (execPkfma x s) := form_alu h _ _
theorem form_execFrcp (x : Fields) (h : Memory.wf s.mem) : KeepsForm (execFrcp x s) := form_alu h _ _
theorem form_execFrsq (x : Fields) (h : Memory.wf s.mem) : KeepsForm (execFrsq x s) := form_alu h _ _
theorem form_execFsqrt (x : Fields) (h : Memory.wf s.mem) : KeepsForm (execFsqrt x s) := form_alu h _ _
theorem form_execFexp2 (x : Fields) (h : Memory.wf s.mem) : KeepsForm (execFexp2 x s) := form_alu h _ _
theorem form_execFlog2 (x : Fields) (h : Memory.wf s.mem) : KeepsForm (execFlog2 x s) := form_alu h _ _
theorem form_execFsin (x : Fields) (h : Memory.wf s.mem) : KeepsForm (execFsin x s) := form_alu h _ _
theorem form_execFcos (x : Fields) (h : Memory.wf s.mem) : KeepsForm (execFcos x s) := form_alu h _ _
theorem form_execCvt (x : Fields) (h : Memory.wf s.mem) : KeepsForm (execCvt x s) := form_alu h _ _
theorem form_execCvtf (x : Fields) (h : Memory.wf s.mem) : KeepsForm (execCvtf x s) := by
  unfold execCvtf
  refine keepsForm_issue h (fun c => ?_)
  repeat' first | split | simp (maxDischargeDepth := 9) [h]
theorem form_execQblk (x : Fields) (h : Memory.wf s.mem) : KeepsForm (execQblk x s) := by
  unfold execQblk
  refine keepsForm_issue h (fun c => ?_)
  repeat' first | split | simp (maxDischargeDepth := 9) [h]
theorem form_execDqblk (x : Fields) (h : Memory.wf s.mem) : KeepsForm (execDqblk x s) := by
  unfold execDqblk
  refine keepsForm_issue h (fun c => ?_)
  repeat' first | split | simp (maxDischargeDepth := 9) [h]
theorem form_execLxchIdx (x : Fields) (h : Memory.wf s.mem) : KeepsForm (execLxchIdx x s) := by
  unfold execLxchIdx
  refine keepsForm_issue h (fun c => ?_)
  repeat' first | split | simp (maxDischargeDepth := 9) [h]
theorem form_execLxchBack (x : Fields) (h : Memory.wf s.mem) : KeepsForm (execLxchBack x s) := by
  unfold execLxchBack
  refine keepsForm_issue h (fun c => ?_)
  repeat' first | split | simp (maxDischargeDepth := 9) [h]
theorem form_execLxchFwd (x : Fields) (h : Memory.wf s.mem) : KeepsForm (execLxchFwd x s) := by
  unfold execLxchFwd
  refine keepsForm_issue h (fun c => ?_)
  repeat' first | split | simp (maxDischargeDepth := 9) [h]
theorem form_execLxchXor (x : Fields) (h : Memory.wf s.mem) : KeepsForm (execLxchXor x s) := by
  unfold execLxchXor
  refine keepsForm_issue h (fun c => ?_)
  repeat' first | split | simp (maxDischargeDepth := 9) [h]
theorem form_execLxchRot (x : Fields) (h : Memory.wf s.mem) : KeepsForm (execLxchRot x s) := by
  unfold execLxchRot
  refine keepsForm_issue h (fun c => ?_)
  repeat' first | split | simp (maxDischargeDepth := 9) [h]
theorem form_execPaggAny (x : Fields) (h : Memory.wf s.mem) : KeepsForm (execPaggAny x s) := by
  unfold execPaggAny
  refine keepsForm_issue h (fun c => ?_)
  simp (maxDischargeDepth := 9) [h]
theorem form_execPaggAll (x : Fields) (h : Memory.wf s.mem) : KeepsForm (execPaggAll x s) := by
  unfold execPaggAll
  refine keepsForm_issue h (fun c => ?_)
  simp (maxDischargeDepth := 9) [h]
theorem form_execPaggSame (x : Fields) (h : Memory.wf s.mem) : KeepsForm (execPaggSame x s) := by
  unfold execPaggSame
  refine keepsForm_issue h (fun c => ?_)
  simp (maxDischargeDepth := 9) [h]
theorem form_execPaggNone (x : Fields) (h : Memory.wf s.mem) : KeepsForm (execPaggNone x s) := by
  unfold execPaggNone
  refine keepsForm_issue h (fun c => ?_)
  simp (maxDischargeDepth := 9) [h]
theorem form_execBallot (x : Fields) (h : Memory.wf s.mem) : KeepsForm (execBallot x s) := by
  unfold execBallot
  refine keepsForm_issue h (fun c => ?_)
  simp (maxDischargeDepth := 9) [h]
theorem form_execEqmaskMask (x : Fields) (h : Memory.wf s.mem) : KeepsForm (execEqmaskMask x s) := by
  unfold execEqmaskMask
  refine keepsForm_issue h (fun c => ?_)
  simp (maxDischargeDepth := 9) [h]
theorem form_execEqmaskLead (x : Fields) (h : Memory.wf s.mem) : KeepsForm (execEqmaskLead x s) := by
  unfold execEqmaskLead
  refine keepsForm_issue h (fun c => ?_)
  simp (maxDischargeDepth := 9) [h]
theorem form_execLfoldAdd (x : Fields) (h : Memory.wf s.mem) : KeepsForm (execLfoldAdd x s) := by
  unfold execLfoldAdd
  refine keepsForm_issue h (fun c => ?_)
  simp (maxDischargeDepth := 9) [h]
theorem form_execLfoldMin (x : Fields) (h : Memory.wf s.mem) : KeepsForm (execLfoldMin x s) := by
  unfold execLfoldMin
  refine keepsForm_issue h (fun c => ?_)
  simp (maxDischargeDepth := 9) [h]
theorem form_execLfoldMax (x : Fields) (h : Memory.wf s.mem) : KeepsForm (execLfoldMax x s) := by
  unfold execLfoldMax
  refine keepsForm_issue h (fun c => ?_)
  simp (maxDischargeDepth := 9) [h]
theorem form_execLfoldAnd (x : Fields) (h : Memory.wf s.mem) : KeepsForm (execLfoldAnd x s) := by
  unfold execLfoldAnd
  refine keepsForm_issue h (fun c => ?_)
  simp (maxDischargeDepth := 9) [h]
theorem form_execLfoldOr (x : Fields) (h : Memory.wf s.mem) : KeepsForm (execLfoldOr x s) := by
  unfold execLfoldOr
  refine keepsForm_issue h (fun c => ?_)
  simp (maxDischargeDepth := 9) [h]
theorem form_execLfoldXor (x : Fields) (h : Memory.wf s.mem) : KeepsForm (execLfoldXor x s) := by
  unfold execLfoldXor
  refine keepsForm_issue h (fun c => ?_)
  simp (maxDischargeDepth := 9) [h]
theorem form_execLfoldCnt (x : Fields) (h : Memory.wf s.mem) : KeepsForm (execLfoldCnt x s) := by
  unfold execLfoldCnt
  refine keepsForm_issue h (fun c => ?_)
  simp (maxDischargeDepth := 9) [h]
theorem form_execLdw (x : Fields) (h : Memory.wf s.mem) : KeepsForm (execLdw x s) := by
  unfold execLdw
  refine keepsForm_issue h (fun c => ?_)
  repeat' first | split | simp (maxDischargeDepth := 9) [h]
theorem form_execPref (x : Fields) (h : Memory.wf s.mem) : KeepsForm (execPref x s) := by
  unfold execPref
  refine keepsForm_issue h (fun c => ?_)
  simp (maxDischargeDepth := 9) [h]
theorem form_execPtest (x : Fields) (h : Memory.wf s.mem) : KeepsForm (execPtest x s) := by
  unfold execPtest
  refine keepsForm_issue h (fun c => ?_)
  repeat' first | split | simp (maxDischargeDepth := 9) [h]
theorem form_execPclr (x : Fields) (h : Memory.wf s.mem) : KeepsForm (execPclr x s) := by
  unfold execPclr
  refine keepsForm_issue h (fun c => ?_)
  simp (maxDischargeDepth := 9) [h]
theorem form_execAtomAdd (x : Fields) (h : Memory.wf s.mem) : KeepsForm (execAtomAdd x s) := form_atomic h
theorem form_execAtomMin (x : Fields) (h : Memory.wf s.mem) : KeepsForm (execAtomMin x s) := form_atomic h
theorem form_execAtomMax (x : Fields) (h : Memory.wf s.mem) : KeepsForm (execAtomMax x s) := form_atomic h
theorem form_execAtomAnd (x : Fields) (h : Memory.wf s.mem) : KeepsForm (execAtomAnd x s) := form_atomic h
theorem form_execAtomOr (x : Fields) (h : Memory.wf s.mem) : KeepsForm (execAtomOr x s) := form_atomic h
theorem form_execAtomXor (x : Fields) (h : Memory.wf s.mem) : KeepsForm (execAtomXor x s) := form_atomic h
theorem form_execAtomExch (x : Fields) (h : Memory.wf s.mem) : KeepsForm (execAtomExch x s) := form_atomic h
theorem form_execCas (x : Fields) (h : Memory.wf s.mem) : KeepsForm (execCas x s) := form_atomic h
theorem form_execRedAdd (x : Fields) (h : Memory.wf s.mem) : KeepsForm (execRedAdd x s) := form_atomic h
theorem form_execRedMin (x : Fields) (h : Memory.wf s.mem) : KeepsForm (execRedMin x s) := form_atomic h
theorem form_execRedMax (x : Fields) (h : Memory.wf s.mem) : KeepsForm (execRedMax x s) := form_atomic h
theorem form_execRedAnd (x : Fields) (h : Memory.wf s.mem) : KeepsForm (execRedAnd x s) := form_atomic h
theorem form_execRedOr (x : Fields) (h : Memory.wf s.mem) : KeepsForm (execRedOr x s) := form_atomic h
theorem form_execRedXor (x : Fields) (h : Memory.wf s.mem) : KeepsForm (execRedXor x s) := form_atomic h
theorem form_execRange (x : Fields) (h : Memory.wf s.mem) : KeepsForm (execRange x s) := by
  unfold execRange
  refine keepsForm_issue h (fun c => ?_)
  repeat' first | split | simp (maxDischargeDepth := 9) [h]
theorem form_execPfenceTile (x : Fields) (h : Memory.wf s.mem) : KeepsForm (execPfenceTile x s) := form_persistFence h
theorem form_execPfenceMod (x : Fields) (h : Memory.wf s.mem) : KeepsForm (execPfenceMod x s) := form_persistFence h
theorem form_execWaitcnt (cls : Fin 6) (x : Fields) (h : Memory.wf s.mem) : KeepsForm (execWaitcnt cls x s) := by
  unfold execWaitcnt
  refine keepsForm_issue h (fun c => ?_)
  simp only [fits_bind, fits_guardUse]
  intro _
  split
  · exact h
  · simp only [fits_bind, fits_stopIf_wait]
    intro _
    split
    · simp [h]
    · rw [fits_bind]; exact (fits_acquireAwaited c _ _ h).mono (fun t ht => by simpa using ht)
theorem form_tagWait {f : List Nat → List Nat → Bool} {x : Fields} (h : Memory.wf s.mem) : KeepsForm (tagWait f x s) :=
  keepsForm_issue h (fun c => by
    simp only [fits_bind, fits_checkOperands, fits_checkPoison]
    intro _ _
    split
    · exact h
    · simp only [fits_bind, fits_stopIf_fault, fits_stopIf_wait, fits_observeAll]
      exact fun _ _ _ => h)
theorem form_execTwaitAny (x : Fields) (h : Memory.wf s.mem) : KeepsForm (execTwaitAny x s) := form_tagWait h
theorem form_execTwaitAll (x : Fields) (h : Memory.wf s.mem) : KeepsForm (execTwaitAll x s) := form_tagWait h
theorem form_execTfind (x : Fields) (h : Memory.wf s.mem) : KeepsForm (execTfind x s) := by
  unfold execTfind
  refine keepsForm_issue h (fun c => ?_)
  repeat' first | split | simp (maxDischargeDepth := 9) [h]
theorem form_execTchkTest (x : Fields) (h : Memory.wf s.mem) : KeepsForm (execTchkTest x s) := by
  unfold execTchkTest
  refine keepsForm_issue h (fun c => ?_)
  repeat' first | split | simp (maxDischargeDepth := 9) [h]
theorem form_execTchkWait (x : Fields) (h : Memory.wf s.mem) : KeepsForm (execTchkWait x s) := by
  unfold execTchkWait
  refine keepsForm_issue h (fun c => ?_)
  repeat' first | split | simp (maxDischargeDepth := 9) [h]
theorem form_execTfree (x : Fields) (h : Memory.wf s.mem) : KeepsForm (execTfree x s) := by
  unfold execTfree
  refine keepsForm_issue h (fun c => ?_)
  repeat' first | split | simp (maxDischargeDepth := 9) [h]
theorem form_execMxa (x : Fields) (h : Memory.wf s.mem) : KeepsForm (execMxa x s) := by
  unfold execMxa
  refine keepsForm_issue h (fun c => ?_)
  repeat' first | split | simp (maxDischargeDepth := 9) [h]
theorem form_execMxq (x : Fields) (h : Memory.wf s.mem) : KeepsForm (execMxq x s) := by
  unfold execMxq
  refine keepsForm_issue h (fun c => ?_)
  repeat' first | split | simp (maxDischargeDepth := 9) [h]
theorem form_execAclr (x : Fields) (h : Memory.wf s.mem) : KeepsForm (execAclr x s) := by
  unfold execAclr
  refine keepsForm_issue h (fun c => ?_)
  repeat' first | split | simp (maxDischargeDepth := 9) [h]
theorem form_execAcvt (x : Fields) (h : Memory.wf s.mem) : KeepsForm (execAcvt x s) := by
  unfold execAcvt
  refine keepsForm_issue h (fun c => ?_)
  repeat' first | split | simp (maxDischargeDepth := 9) [h]
theorem form_execBarw (x : Fields) (h : Memory.wf s.mem) : KeepsForm (execBarw x s) := by
  unfold execBarw
  refine keepsForm_issue h (fun c => ?_)
  repeat' first | split | simp (maxDischargeDepth := 9) [h]
theorem form_execBarq (x : Fields) (h : Memory.wf s.mem) : KeepsForm (execBarq x s) := by
  unfold execBarq
  refine keepsForm_issue h (fun c => ?_)
  repeat' first | split | simp (maxDischargeDepth := 9) [h]
theorem form_execGate (x : Fields) (h : Memory.wf s.mem) : KeepsForm (execGate x s) := by
  unfold execGate
  refine keepsForm_issue h (fun c => ?_)
  repeat' first | split | simp (maxDischargeDepth := 9) [h]
theorem form_execAcq (kind : Fin 6) (x : Fields) (h : Memory.wf s.mem) : KeepsForm (execAcq kind x s) := form_acquire h
theorem form_execAcqW (kind : Fin 6) (x : Fields) (h : Memory.wf s.mem) : KeepsForm (execAcqW kind x s) := form_acquire h
theorem form_execFree (kind : Fin 6) (x : Fields) (h : Memory.wf s.mem) : KeepsForm (execFree kind x s) := by
  unfold execFree
  refine keepsForm_issue h (fun c => ?_)
  repeat' first | split | simp (maxDischargeDepth := 9) [h]
theorem form_execClmq (kind : Fin 6) (x : Fields) (h : Memory.wf s.mem) : KeepsForm (execClmq kind x s) := by
  unfold execClmq
  refine keepsForm_issue h (fun c => ?_)
  simp (maxDischargeDepth := 9) [h]
theorem form_execChpoll (x : Fields) (h : Memory.wf s.mem) : KeepsForm (execChpoll x s) := by
  unfold execChpoll
  refine keepsForm_issue h (fun c => ?_)
  repeat' first | split | simp (maxDischargeDepth := 9) [h]
theorem form_execChclose (x : Fields) (h : Memory.wf s.mem) : KeepsForm (execChclose x s) := by
  unfold execChclose
  refine keepsForm_issue h (fun c => ?_)
  repeat' first | split | simp (maxDischargeDepth := 9) [h]
theorem form_execWdq (x : Fields) (h : Memory.wf s.mem) : KeepsForm (execWdq x s) := by
  unfold execWdq
  refine keepsForm_issue h (fun c => ?_)
  simp (maxDischargeDepth := 9)
  repeat' first | split | simp (maxDischargeDepth := 9) [h]
theorem form_execTime (x : Fields) (h : Memory.wf s.mem) : KeepsForm (execTime x s) := by
  unfold execTime
  refine keepsForm_issue h (fun c => ?_)
  repeat' first | split | simp (maxDischargeDepth := 9) [h]
theorem form_execMovcr (x : Fields) (h : Memory.wf s.mem) : KeepsForm (execMovcr x s) := by
  unfold execMovcr
  refine keepsForm_issue h (fun c => ?_)
  repeat' first | split | simp (maxDischargeDepth := 9) [h]
theorem form_execMovrc (x : Fields) (h : Memory.wf s.mem) : KeepsForm (execMovrc x s) := by
  unfold execMovrc
  refine keepsForm_issue h (fun c => ?_)
  repeat' first | split | simp (maxDischargeDepth := 9) [h]
theorem form_execShdw (x : Fields) (h : Memory.wf s.mem) : KeepsForm (execShdw x s) := by
  unfold execShdw
  refine keepsForm_issue h (fun c => ?_)
  simp (maxDischargeDepth := 9) [h]
theorem form_execTlbi (x : Fields) (h : Memory.wf s.mem) : KeepsForm (execTlbi x s) := by
  unfold execTlbi
  refine keepsForm_issue h (fun c => ?_)
  repeat' first | split | simp (maxDischargeDepth := 9) [h]
theorem form_execHalt (x : Fields) (h : Memory.wf s.mem) : KeepsForm (execHalt x s) := by
  unfold execHalt
  refine keepsForm_issue h (fun c => ?_)
  repeat' first | split | simp (maxDischargeDepth := 9) [h]

end Sys2Proof.Machine
end

