-- ==== Sys2Proof/Laws/Translation.lean ====
section
/-! SUPPORT. A translation depends on memory, its error marks, the cached translations, the module's registers and the draws, and on
nothing else of the state. -/

namespace Sys2Proof.Machine

variable {s t : State}

/-- Two states that a translation does not tell apart. -/
structure SamePages (s t : State) : Prop where
  mem : t.mem = s.mem
  bad : t.bad = s.bad
  lost : t.lost = s.lost
  tlb : t.tlb = s.tlb
  draws : t.draws = s.draws
  module : t.module = s.module

theorem isBad_congr (h : SamePages s t) (a : Nat) : t.isBad a = s.isBad a := by unfold State.isBad; rw [h.bad, h.lost]

theorem loadBytes_congr (h : SamePages s t) (a n : Nat) : t.loadBytes a n = s.loadBytes a n := by
  unfold State.loadBytes
  congr 1
  funext i
  unfold State.load State.byte
  rw [isBad_congr h, h.mem, h.draws]

theorem walkLevels_congr (h : SamePages s t) (va : Nat) (ls : List (Nat × Nat)) :
    ∀ table, walkLevels t va table ls = walkLevels s va table ls := by
  induction ls with
  | nil => intro table; rfl
  | cons l rest ih =>
    intro table
    unfold walkLevels
    dsimp only
    rw [isBad_congr h, loadBytes_congr h, ih]

theorem walk_congr (h : SamePages s t) (p : Part) (va : Nat) : walk t p va = walk s p va := by
  unfold walk State.unrouted State.nodeOf
  rw [walkLevels_congr h, h.module]

theorem lookup_congr (h : SamePages s t) (p : Part) (die va : Nat) : lookup t p die va = lookup s p die va := by
  unfold lookup State.walkerSpent
  rw [walk_congr h, h.tlb, h.draws, h.module]

/-- An access that translates goes on doing so. -/
theorem translate_congr {c : Issue} {va a : Nat} {r w : Bool} (h : SamePages s t) (k : translate s c va r w = .ok a) :
    translate t c va r w = .ok a := by
  unfold translate at k ⊢
  rw [lookup_congr h]
  split at k
  · split at k
    · cases k
    · simp_all
  all_goals cases k

end Sys2Proof.Machine
end

