-- ==== Sys2Proof/Tests/Slice0.lean ====
section
/-! SUPPORT. Tests: words that the manual writes out, ill-formed words for each check, values that the manual states, and a witness for the
hypotheses of each statement. -/

namespace Sys2Proof.Tests

open Machine

/-- Fields with no operand, no modifier and no guard. -/
def x0 : Fields := guardOf false 7

/-- The subcode of a word that is no instruction. -/
def rejects (w : BitVec 96) : Option Nat :=
  match decodeWord w with
  | .ok _ => none
  | .error n => some n

/-! ### Words of the manual (08 "Worked encodings", and the tables of encodings of 09 to 18 and 21) -/

theorem test_word_bra : decodeTableWord 96 0x3009F83C0F80000001E00000 = some (.bra { guardOf true 1 with a := .imm32 0x78 }) := by decide
theorem test_word_icmp : decodeTableWord 96 0x2007C098080000000F800000 = some (.icmp 0 { x0 with d := .p 2, a := .sp .laneid, b := .imm 0 }) := by
  decide
theorem test_word_iadd : decodeTableWord 96 0x030741D0441800000F810000 = some (.iadd { x0 with d := .s 7, a := .s 4, b := .s 6, eb := true }) := by
  decide
theorem test_word_tern : decodeTableWord 96 0x0E070040200C000960100000 =
    some (.tern { x0 with d := .v 1, a := .v 2, b := .v 3, c := .v 4, opt := 0x96 }) := by decide
theorem test_word_bfx : decodeTableWord 96 0x120701D8080C600008040000 =
    some (.bfx { x0 with d := .v 7, a := .sp .laneid, b := .imm 3, c := .imm 1, ty := .s32 }) := by decide
theorem test_word_bfi : decodeTableWord 96 0x130701406024000008400000 =
    some (.bfi { x0 with d := .v 5, a := .v 6, b := .v 9, c := .imm 16 }) := by decide
theorem test_word_lxch : decodeTableWord 96 0x70370080184000000F800000 = some (.lxchXor { x0 with d := .v 2, a := .v 1, b := .imm 16 }) := by decide
theorem test_word_reord : decodeTableWord 96 0x7507F8007F00005003FC0000 = some (.reord { x0 with a := .v 7, b := .imm32 0x001400FF }) := by decide
theorem test_word_ld : decodeTableWord 96 0x800702006F8000000F800000 = some (.ld { x0 with d := .v 8, a := .v 6 }) := by decide
theorem test_word_ld_sp : decodeTableWord 96 0x800742BE041404000F800000 = some (.ld { x0 with d := .s 10, b := .s 5, space := .sp }) := by decide
theorem test_word_ld_a128 : decodeTableWord 96 0x80070100242220000F800000 = some (.ld { x0 with d := .v 4, a := .v 2, b := .s 8, ty := .a128 }) := by
  decide
theorem test_word_st : decodeTableWord 96 0x810242107F8000000F800000 = some (.st { guardOf false 2 with d := .s 8, a := .s 7 }) := by decide
theorem test_word_st_gd : decodeTableWord 96 0x8107008004A4C0800F800000 =
    some (.st { x0 with d := .v 2, a := .v 0, b := .s 41, ty := .n16, scope := .gd }) := by decide
theorem test_word_fence : decodeTableWord 96 0xA307F8202F8002800F800000 = some (.fence { x0 with a := .imm 2, order := .rel, scope := .gd }) := by decide
theorem test_word_waitcnt : decodeTableWord 96 0xA617F8200F8000000F800400 = some (.waitcnt 1 { x0 with a := .imm 0, yld := true }) := by decide
theorem test_word_atom : decodeTableWord 96 0xA0070100280400000F800000 = some (.atomAdd { x0 with d := .v 4, a := .v 2, b := .imm 1 }) := by decide
theorem test_word_mxa : decodeTableWord 96 0xC007F810CF8000000F800000 = some (.mxa { x0 with a := .s 12 }) := by decide
theorem test_word_mxq : decodeTableWord 96 0xC10747200F8000000F800000 = some (.mxq { x0 with d := .s 28, a := .imm 0 }) := by decide
theorem test_word_acvt : decodeTableWord 96 0xC307002004A160000F800000 =
    some (.acvt { x0 with d := .v 0, a := .imm 0, b := .s 40, ty := .bf16 }) := by decide
theorem test_word_cpt : decodeTableWord 96 0xB007E0D10F8004000F800000 = some (.cpt { x0 with d := .t 3, a := .s 16, space := .sp }) := by decide
theorem test_word_tchk : decodeTableWord 96 0xB417F838481000000F800000 = some (.tchkWait { x0 with a := .t 4, b := .imm 4 }) := by decide
theorem test_word_twait : decodeTableWord 96 0xB217F8108F8000000F800000 = some (.twaitAll { x0 with a := .s 8 }) := by decide
theorem test_word_bars : decodeTableWord 96 0xD207F83A8F8000000F800000 = some (.bars { x0 with a := .bar 1 0 }) := by decide
theorem test_word_barq : decodeTableWord 96 0xD30742BA9F8000000F800000 = some (.barq { x0 with d := .s 10, a := .bar 1 1 }) := by decide
theorem test_word_acq : decodeTableWord 96 0xD6C745201F8000000F800000 = some (.acqW 4 { x0 with d := .s 20, a := .imm 1 }) := by decide
theorem test_word_acq_reg : decodeTableWord 96 0xD60746208F8000000F800000 = some (.acq 0 { x0 with d := .s 24, a := .imm 8 }) := by decide
theorem test_word_chsend : decodeTableWord 96 0xE007F836241400000F800000 = some (.chsend { x0 with a := .c 2, b := .s 5 }) := by decide
theorem test_word_wdq : decodeTableWord 96 0xE507F82004180000041C0000 = some (.wdq { x0 with a := .imm 0, b := .s 6, c := .s 7 }) := by decide
theorem test_word_pfence : decodeTableWord 96 0xA507F8202F8000000F800000 = some (.pfenceTile { x0 with a := .imm 2 }) := by decide
theorem test_word_mov_resume : decodeTableWord 96 0x010744592F8000000F800000 = some (.mov { x0 with d := .s 17, a := .sp .resume }) := by decide
theorem test_word_movcr : decodeTableWord 96 0xF00742206F8000000F800000 = some (.movcr { x0 with d := .s 8, a := .imm 6 }) := by decide
theorem test_word_movrc : decodeTableWord 96 0xF107F820642000000F800000 = some (.movrc { x0 with a := .imm 6, b := .s 8 }) := by decide
theorem test_word_eret : decodeTableWord 96 0xF207F83E0F8000000F800000 = some (.eret x0) := by decide

/-- The bytes in memory that 08 gives for callout N19 are its word. -/
theorem test_bytes_bra : wordOfBytes [0, 0, 0xE0, 1, 0, 0, 0x80, 0x0F, 0x3C, 0xF8, 0x09, 0x30] = 0x3009F83C0F80000001E00000#96 := by decide

/-! ### Ill-formed words (08 "Worked encodings", R171 to R181) -/

theorem test_bad_major : rejects 0x190741D0441800000F810000#96 = some 1 := by decide
theorem test_bad_low_byte : rejects 0x030741D0441800000F810001#96 = some 2 := by decide
/-- A is S5 under .s64, which IADD does not admit: the odd base is found first. -/
theorem test_bad_pair : Instr.wf (.iadd { x0 with d := .s 7, a := .s 5, b := .s 6, ty := .s64, eb := true }) = false
    ∧ firstFault .iadd { x0 with d := .s 7, a := .s 5, b := .s 6, ty := .s64, eb := true } = some 4 := by decide
theorem test_bad_policy : firstFault .iadd { x0 with d := .s 7, a := .imm 3, b := .s 6, ea := true, eb := true } = some 7 := by decide
theorem test_never_guard : (Instr.iadd { guardOf true 7 with d := .s 7, a := .s 4, b := .s 6, eb := true }).wf = true := by decide
/-- Barrier level 00 has index 0 alone. -/
theorem test_bad_barrier : Fields.wordForm { x0 with a := .bar 0 1 } = false ∧ rejects 0xD207F83A1F8000000F800000#96 = some 2 := by decide
theorem test_bad_c_imm32 : Fields.wordForm { x0 with c := .imm32 1 } = false := by decide
theorem test_bad_two_imm32 : Fields.wordForm { x0 with a := .imm32 1, b := .imm32 1 } = false
    ∧ firstFault .iadd { x0 with d := .s 7, a := .imm32 1, b := .imm32 1 } = some 6 := by decide
theorem test_bad_imm32_with_c : Fields.wordForm { x0 with a := .imm32 1, c := .v 1 } = false := by decide
theorem test_bad_imm32_with_type : Fields.wordForm { x0 with a := .imm32 1, ty := .s32 } = false := by decide
theorem test_bad_value : firstFault .movcr { x0 with d := .s 8, a := .imm 7 } = some 2 := by decide
theorem test_bad_class : firstFault .fadd { x0 with d := .p 1, a := .v 1, b := .v 2 } = some 3 := by decide
theorem test_bad_unused : firstFault .not { x0 with d := .v 1, a := .v 1, b := .v 2 } = some 3 := by decide
theorem test_bad_uniform : firstFault .iadd { x0 with d := .s 7, a := .v 1, b := .s 6 } = some 3 := by decide
theorem test_bad_pairing : firstFault .pmov { x0 with d := .v 1, a := .v 2 } = some 3 := by decide
theorem test_bad_modifier : firstFault .iadd { x0 with d := .s 7, a := .s 4, b := .s 6, ty := .f32 } = some 5 := by decide
theorem test_bad_option : firstFault .iadd { x0 with d := .s 7, a := .s 4, b := .s 6, opt := 1 } = some 5 := by decide
theorem test_bad_imm_with_needed_c : firstFault .imad { x0 with d := .v 1, a := .v 1, b := .imm32 1 } = some 6 := by decide
theorem test_bad_tag : firstFault .tfree { x0 with a := .imm32 64 } = some 6 := by decide
theorem test_bad_mask : firstFault .fence { x0 with a := .imm 0, order := .rel } = some 6 := by decide
/-- Fewer than twelve bytes hold no instruction. -/
theorem test_short : (decodeBytes [0, 0, 0]).toOption = none := by decide

/-! ### A small machine: one wave of one live lane, in one block of one grid -/

/-- Fields with V operands only, pair and quad bases among them; and the same with S registers, and S sources over a P destination. -/
def xv : Fields := { x0 with d := .v 0, a := .v 4, b := .v 8, c := .v 12 }
def xs : Fields := { x0 with d := .s 0, a := .s 4, b := .s 8 }
def xp : Fields := { x0 with d := .p 1, a := .v 4, b := .v 8 }

/-- The pages of the bench map the lowest 64 GiB onto themselves. -/
def tables : List Host.Cell := [(0x4000, 1), (0x4001, 0x80), (0x8000, 0xF)]

def g0 : Grid := { benchGrid 1 with counts := [0, 2] ++ List.replicate 38 1, formats := [0x4, 0x2, 0x5104, 0x1] ++ List.replicate 4 0 }
def p0 : Part := benchPart 0
def i0 : Item := { grid := g0, lin := 0, records := [], task := false, resume := 0 }
def b0 : Block := startBlock i0 benchPlace 2
def lane0 : Lane :=
  { state := .live, pc := 0, held := false, frozen := false, stack := [], spilled := 0, task := 0, group := 0, member := 0 }
def w0 : Wave := { startWave p0 i0 benchPlace 3 2 0 with lanes := [lane0] }

def world (w : Wave) (b : Block) (g : Grid) (p : Part) : State :=
  { State.reset with waves := [w], blocks := [b], grids := [g], parts := [p], issuing := 3, fresh := 100, mem := tables }
def st : State := world w0 b0 g0 p0

def seatOf (w : Wave) (b : Block) (g : Grid) (p : Part) : Issue :=
  { wave := w, block := b, grid := g, part := p, group := [0], active := [0], pc := 0 }
def seat : Issue := seatOf w0 b0 g0 p0

/-- An unguarded instruction meets the group that the fields `x0` meet. -/
theorem seatedIn {s : State} {c : Issue} {x : Fields} (hg : x.gp = 7) (hn : x.gn = false) (h : s.issue? x0 = some c)
    (hc : c.pc + 12 < c.codeSize) : Meets s x c := by
  refine ⟨?_, hc⟩
  have hp : ∀ w, guardPasses w x = guardPasses w x0 := fun w => funext (fun l => by simp only [guardPasses, hg, hn]; rfl)
  rw [← h]
  simp only [State.issue?, hp]

theorem seated (x : Fields) (hg : x.gp = 7) (hn : x.gn = false) : Meets st x seat := seatedIn hg hn (by decide) (by decide)

theorem ready {s : State} {c : Issue} {srcs : List Src} {d : Operand} {n : Nat}
    (h : (srcs.all (fun r => c.active.all (fun l => (readOp s c r.op r.regs l).full) && ! beyondGrant c.wave r.op r.regs)
      && ! beyondGrant c.wave d n && ! destBusy c d n) = true) : Readable s c srcs d n := by
  simp only [Bool.and_eq_true, List.all_eq_true, Bool.not_eq_true'] at h
  exact ⟨fun r hr l hl => (h.1.1 r hr).1 l hl, fun _ r hr => (h.1.1 r hr).2, fun _ => h.1.2, fun _ => h.2⟩

theorem sound {s : State} {c : Issue} {srcs : List Src}
    (h : srcs.all (fun r => c.active.all (fun l => ! (readOp s c r.op r.regs l).pz)) = true) : Sound s c srcs := by
  simp only [List.all_eq_true, Bool.not_eq_true'] at h
  exact h

theorem guardSound {c : Issue} {x : Fields} (h : c.group.all (fun l => ! guardPoisoned c.wave x l) = true) : GuardSound c x := by
  simpa only [GuardSound, List.all_eq_true, Bool.not_eq_true'] using h

/-! ### Witnesses: lane-by-lane results -/

theorem witness_IntegerUnit : Meets st xv seat ∧ Readable st seat (shape1.srcs xv) xv.d 1 ∧ Readable st seat (shape2.srcs xv) xv.d 1 ∧
    Readable st seat (shape3.srcs xv) xv.d 1 ∧ Readable st seat (shapeLong.srcs xv) xv.d 2 ∧
    Readable st seat (Shape.srcs { d := 2, a := 2, b := 1, c := 1, old := false } xv) xv.d 2 ∧
    Readable st seat (Shape.srcs { shape3 with old := true } xv) xv.d 1 :=
  ⟨seated _ rfl rfl, ready (by decide), ready (by decide), ready (by decide), ready (by decide), ready (by decide), ready (by decide)⟩

theorem witness_Compares : Meets st xp seat ∧ Readable st seat (shape1.srcs xp) xp.d 1 ∧ Readable st seat (shape2.srcs xp) xp.d 1 ∧
    Readable st seat (Shape.srcs { d := 1, a := 2, b := 2, c := 0, old := false } xp) xp.d 1 :=
  ⟨seated _ rfl rfl, ready (by decide), ready (by decide), ready (by decide)⟩

theorem witness_FloatArithmetic : Meets st xv seat ∧ Readable st seat (shape2.srcs xv) xv.d 1 ∧ Readable st seat (shape3.srcs xv) xv.d 1 :=
  ⟨seated _ rfl rfl, ready (by decide), ready (by decide)⟩

theorem witness_PackedAndElementary : Meets st xv seat ∧ Readable st seat (shape1.srcs xv) xv.d 1 ∧
    Readable st seat (shape2.srcs xv) xv.d 1 ∧ Readable st seat (shape3.srcs xv) xv.d 1 :=
  ⟨seated _ rfl rfl, ready (by decide), ready (by decide), ready (by decide)⟩

theorem witness_ElementarySpecialCases : fp32 ∈ [fp32, fp16, bf16] ∧ bf16 ∈ [fp32, fp16, bf16] ∧ (1 : Nat) ≠ 0 := by decide

/-- The least pattern and the greatest finite one. -/
theorem witness_FloatRoundTrip : e2m1 ∈ [fp32, fp16, bf16, e5m2, e4m3, e2m1] ∧ 0 < 2 ^ e2m1.width ∧ e2m1.decode 0 ≠ .nan ∧
    7 < 2 ^ e2m1.width ∧ e2m1.decode 7 ≠ .nan := by decide

/-- 5/4 in E2M1 lies between 1 and 3/2. -/
theorem witness_RoundsToNearestEven : e2m1 ∈ [fp32, fp16, bf16, e5m2, e4m3, e2m1] ∧ (5 : Nat) ≠ 0 ∧ 3 ≤ e2m1.maxCode ∧
    e2m1.nearest 5 (-2) ≤ e2m1.maxCode ∧ (∃ a x, e2m1.decode (e2m1.encode (.fin false 5 (-2))) = .fin false a x) ∧
    ∃ b y, e2m1.decode 3 = .fin false b y := ⟨by decide, by decide, by decide, by decide, ⟨_, _, rfl⟩, _, _, rfl⟩

/-- CVT from f32; CVTF from E4M3 of slot 0 to BF16 of slot 1, and back, with the old D among the sources. -/
theorem witness_Conversions :
    let x := { x0 with d := .v 0, a := .v 4, b := .imm 9 }
    let f : Fields := { x0 with d := .v 0, a := .v 4, b := .f 0, c := .f 1, opt := 1 }
    let k : Fields := { x0 with d := .v 0, a := .v 4, b := .f 1, c := .f 0, opt := 1 }
    Meets st x seat ∧ Readable st seat [srcA x ((cvtSource x).getD .f32).regs] x.d (effectiveTy .cvt x).regs ∧
    Meets st f seat ∧ seat.active ≠ [] ∧ slotUnusable seat f.b = false ∧ slotUnusable seat f.c = false ∧
    (slotFmt seat f.b).width = 8 ∧ (slotFmt seat f.c).width = 16 ∧ f.opt.toNat % 8 < 2 ∧ Readable st seat [srcA f 1] f.d 1 ∧
    Meets st k seat ∧ Readable st seat [srcA k 1, srcD k 1] k.d 1 :=
  ⟨seated _ rfl rfl, ready (by decide), seated _ rfl rfl, by decide, by decide, by decide, by decide, by decide, by decide, ready (by decide),
    seated _ rfl rfl, ready (by decide)⟩

/-- Slot 2 has E4M3 elements in blocks of 32. -/
theorem witness_BlockConversions :
    let x : Fields := { x0 with d := .v 0, a := .v 4, b := .f 2 }
    Meets st x seat ∧ seat.active ≠ [] ∧ blockSlotOk seat x.b = true ∧ slotBlk (slotWord seat x.b) ≠ 6 ∧ Readable st seat [srcA x 1] x.d 1 :=
  ⟨seated _ rfl rfl, by decide, by decide, by decide, ready (by decide)⟩

/-- The partner is live: the lane itself. -/
theorem witness_LaneExchange :
    let x : Fields := { x0 with d := .v 0, a := .v 4, b := .zero }
    Meets st x seat ∧ Readable st seat [srcB x 1] x.d 1 ∧ beyondGrant seat.wave x.a 1 = false ∧ seat.wave.isLive 0 = true ∧
      (readOp st seat x.a 1 0).full = true :=
  ⟨seated _ rfl rfl, ready (by decide), by decide, by decide, by decide⟩

theorem witness_VotesAndFolds :
    let x : Fields := { x0 with d := .s 1, a := .p 1 }
    Meets st x seat ∧ Readable st seat [srcA x 1] x.d 1 ∧ Readable st seat [srcA xv 1] xv.d 1 :=
  ⟨seated _ rfl rfl, ready (by decide), ready (by decide)⟩

/-! ### Witnesses: control -/

/-- A wave whose return stack is full, and one with a link to return by. -/
def wFull : Wave := { w0 with lanes := [{ lane0 with stack := List.replicate 16 (24, false) }] }
def wLink : Wave := { w0 with lanes := [{ lane0 with stack := [(24, false)] }] }

/-- Branches at a displacement, calls with room on the stack and with a frame that must leave it, and a return. -/
theorem witness_ControlTransfers :
    let x : Fields := { x0 with a := .imm 24 }
    let y : Fields := { x0 with a := .v 4, b := .imm 24 }
    let f := world wFull b0 g0 p0
    let c := seatOf wFull b0 g0 p0
    let r := world wLink b0 g0 p0
    let k := seatOf wLink b0 g0 p0
    (Meets st x seat ∧ GuardSound seat x ∧ goodTransfer seat (transferTo st seat x.a none)) ∧
    (Meets st y seat ∧ Readable st seat [srcA y 1] .zero 1 ∧ Sound st seat [srcA y 1] ∧
      goodTransfer seat (transferTo st seat y.b (some y.a))) ∧
    (∀ l ∈ seat.active, (seat.wave.lane l).stack.length < 16) ∧
    (Meets f x c ∧ Readable f c [] .zero 1 ∧ Sound f c [] ∧ GuardSound c x ∧ goodTransfer c (transferTo f c x.a none) ∧
      (∀ l ∈ c.active, 16 ≤ (c.wave.lane l).stack.length ∧ (c.wave.lane l).spilled < 64) ∧
      (match (c.active.filter (fun l => decide (16 ≤ (c.wave.lane l).stack.length))).foldlM (fun t l =>
          spillFrame t c l (c.wave.lane l).spilled ((c.wave.lane l).stack.map Prod.fst).reverse) f with
        | .ok s' => s'.dirty.length == 16 | .error _ => false) = true) ∧
    (Meets r x0 k ∧ GuardSound k x0 ∧ (∀ l ∈ k.active, filledStack r k l = .ok ((24, false) :: [])) ∧
      goodTransfer k (fun _ => ((24 : Word).toNat : Int))) ∧ (seat.pc + 12 < seat.codeSize) := by
  refine ⟨⟨seated _ rfl rfl, guardSound (by decide), by decide, .inl (by decide)⟩,
    ⟨seated _ rfl rfl, ready (by decide), sound (by decide), by decide, .inl (by decide)⟩,
    by decide, ⟨seatedIn rfl rfl (by decide) (by decide), ready (by decide), sound (by decide), guardSound (by decide),
      ⟨by decide, .inl (by decide)⟩, by decide, by decide +kernel⟩,
    ⟨seatedIn rfl rfl (by decide) (by decide), guardSound (by decide), ?_, by decide, .inl (by decide)⟩, by decide⟩
  intro l hl
  obtain rfl : l = 0 := by simpa [seatOf] using hl
  rfl

/-- The partition has a debugger attached. -/
def pBug : Part := { p0 with debugger := true }

theorem witness_YieldTrapAndBreakpoint :
    let x : Fields := { x0 with a := .imm 5 }
    Meets st x seat ∧ seat.active ≠ [] ∧ seat.part.debugger = false ∧ Meets (world w0 b0 g0 pBug) x (seatOf w0 b0 g0 pBug) ∧
    (seatOf w0 b0 g0 pBug).part.debugger = true ∧ Readable st seat [srcA x 1] .zero 1 ∧ Sound st seat [srcA x 1] ∧
    seat.wave.handler = false ∧ seat.part.xlate.hsize ≠ 0 :=
  ⟨seated _ rfl rfl, by decide, by decide, seatedIn rfl rfl (by decide) (by decide), by decide, ready (by decide), sound (by decide),
    by decide, by decide⟩

/-! ### Witnesses: accesses -/

theorem mapped {s : State} {c : Issue} {spc : Space} {n : Nat} {r w : Bool} {lanes : List Nat} {addr : Nat → Nat}
    {place : Nat → Nat × Nat × Nat}
    (h : lanes.all (fun l => decide (addr l % n = 0) && (spc != .g || decide (addr l < 2 ^ 58)) && inGrant s c spc (addr l) n
      && (spc != .pv || decide (addr l + n ≤ 0xF000)) && (spc != .k || decide (addr l + n ≤ c.grid.ksize))
      && (spc != .g || ! inPrivate c.part (addr l) n)) = true)
    (f : ∀ l ∈ lanes, locate s c spc l (addr l) r w = .ok (place l)) : Mapped s c spc n r w lanes addr place := by
  simp only [List.all_eq_true, Bool.and_eq_true, Bool.or_eq_true, decide_eq_true_eq, bne_iff_ne, ne_eq, Bool.not_eq_true'] at h
  refine ⟨fun l hl => ?_, f⟩
  obtain ⟨⟨⟨⟨⟨h1, h2⟩, h3⟩, h4⟩, h5⟩, h6⟩ := h l hl
  exact ⟨h1, fun e => h2.resolve_left (fun n => n e), h3, fun e => h4.resolve_left (fun n => n e), fun e => h5.resolve_left (fun n => n e),
    fun e => h6.resolve_left (fun n => n e)⟩

theorem unheld {s : State} {c : Issue} {cls : Nat} {ranges : BitVec 9} {touched : List Spot}
    (h : (! accessHeld c.wave && ! behindAtomic c.wave touched && decide (c.wave.counter cls < 63)
      && (List.range 9).all (fun i => ! ranges.getLsbD i || decide (rangeCount s c.wave i < 63))) = true) :
    Unheld s c cls ranges touched := by
  simp only [Bool.and_eq_true, Bool.not_eq_true', decide_eq_true_eq, List.all_eq_true, List.mem_range, Bool.or_eq_true] at h
  exact ⟨h.1.1.1, h.1.1.2, h.1.2, fun i hi hb => (h.2 i hi).resolve_left (by simp [hb])⟩

/-- A global load of one register from address 8, and a scratchpad store of a pair at the last place of the grant. -/
theorem witness_LoadsAndStores :
    let x : Fields := { x0 with d := .v 0, a := .v 4, b := .imm 8 }
    let y : Fields := { x0 with d := .imm32 0x3FFF8, a := .v 4, space := .sp, ty := .n64 }
    (Meets st x seat ∧ seat.active ≠ [] ∧ Readable st seat [srcA x (addrRegs x.space), srcB x 1] x.d (effectiveTy .ld x).regs ∧
      Sound st seat [srcA x (addrRegs x.space), srcB x 1] ∧ GuardSound seat x ∧
      Mapped st seat .g 4 true false (accessLanes seat [x.d, x.a, x.b]) (effAddr st seat .g x.a x.b) (fun _ => (8, 8, 0)) ∧
      Unheld st seat 0 (allRangeBits seat.wave .g 4 [8]) (sectorsAt .g 4 [(8, 8, 0)])) ∧
    (Meets st y seat ∧ Readable st seat [srcD y (addrRegs y.space), srcA y (effectiveTy .st y).regs, srcB y 1] .zero 1 ∧
      Sound st seat [srcD y (addrRegs y.space), srcA y (effectiveTy .st y).regs, srcB y 1] ∧ GuardSound seat y ∧
      Mapped st seat .sp 8 false true (accessLanes seat [y.d, y.a, y.b]) (effAddr st seat .sp y.d y.b) (fun _ => (0x3FFF8, 0, 2)) ∧
      Unheld st seat 1 (allRangeBits seat.wave .sp 8 [0x3FFF8]) (sectorsAt .sp 8 [(0x3FFF8, 0, 2)])) ∧
    (Readable st seat [srcA x 2, srcB x 1] .zero 1 ∧ Sound st seat [srcA x 2, srcB x 1]) := by
  refine ⟨⟨seated _ rfl rfl, by decide, ready (by decide), sound (by decide), guardSound (by decide), mapped (by decide) ?_, unheld (by decide)⟩,
    ⟨seated _ rfl rfl, ready (by decide), sound (by decide), guardSound (by decide), mapped (by decide) ?_, unheld (by decide)⟩,
    ready (by decide), sound (by decide)⟩
  · intro l hl
    obtain rfl : l = 0 := by simpa [accessLanes, isVReg, seat, seatOf] using hl
    rfl
  · intro l hl
    obtain rfl : l = 0 := by simpa [accessLanes, isVReg, seat, seatOf] using hl
    rfl

/-- A partition with the least share of weight store: a load inside it. -/
def pWs : Part := { p0 with wssz := 1 }

theorem witness_WeightLoadsAndCopies :
    let x : Fields := { x0 with d := .v 0, a := .imm 0, b := .imm 124 }
    let s := world w0 b0 g0 pWs
    let c := seatOf w0 b0 g0 pWs
    let y : Fields := { x0 with d := .v 0, a := .v 4, space := .sp, opt := 1 }
    (Meets s x c ∧ c.active ≠ [] ∧ Readable s c [srcA x 1, srcB x 1] x.d (effectiveTy .ldw x).regs ∧ Sound s c [srcA x 1, srcB x 1] ∧
      GuardSound c x ∧ (∀ l ∈ accessLanes c [x.d, x.a, x.b], (bits32 s c x.a l).toNat < 2 ^ 20 ∧
        ((bits32 s c x.a l).toNat * 4096 + (bits32 s c x.b l).toNat) % 4 = 0 ∧
        (bits32 s c x.a l).toNat * 4096 + (bits32 s c x.b l).toNat + 4 ≤ c.part.wsBytes) ∧ Unheld s c 0 (BitVec.twoPow 9 8) []) ∧
    (Meets st y seat ∧ optSpace y = .sp ∧ tySize (effectiveTy .cpl y) = 4 ∧
      Readable st seat [srcD y (addrRegs y.space), srcA y (addrRegs .sp)] .zero 1 ∧
      Sound st seat [srcD y (addrRegs y.space), srcA y (addrRegs .sp)] ∧ GuardSound seat y ∧
      Mapped st seat .sp 4 false true [0] (effAddr st seat .sp y.d .zero) (fun _ => (0, 0, 2)) ∧
      Mapped st seat .sp 4 true false [0] (effAddr st seat .sp y.a .zero) (fun _ => (0, 0, 2)) ∧
      Unheld st seat 2 (BitVec.twoPow 9 8) (spots .sp 2 0 4 ++ spots .sp 2 0 4)) := by
  refine ⟨⟨seatedIn rfl rfl (by decide) (by decide), by decide, ready (by decide), sound (by decide), guardSound (by decide), by decide,
      unheld (by decide)⟩,
    ⟨seated _ rfl rfl, by decide, by decide, ready (by decide), sound (by decide), guardSound (by decide), mapped (by decide) ?_,
      mapped (by decide) ?_, unheld (by decide)⟩⟩
  · intro l hl
    obtain rfl : l = 0 := by simpa using hl
    rfl
  · intro l hl
    obtain rfl : l = 0 := by simpa using hl
    rfl

/-- PTEST of a predicate into a predicate, and into an S register, where the lanes' tags agree. -/
theorem witness_MovesAndPoison :
    let x : Fields := { x0 with d := .s 1, a := .p 1 }
    let y : Fields := { x0 with d := .v 0, a := .v 4, b := .v 8, c := .p 1 }
    let z : Fields := { x0 with d := .s 1, a := .v 4, b := .imm 0 }
    (Meets st x seat ∧ seat.active ≠ [] ∧ Readable st seat [srcA x 1] x.d 1 ∧
      ∀ l ∈ seat.active, ∀ k ∈ seat.active, (readOp st seat x.a 1 l).pz = (readOp st seat x.a 1 k).pz) ∧
    (Meets st xv seat ∧ Readable st seat [srcA xv 1] xv.d 1) ∧
    (Meets st y seat ∧ (beyondGrant seat.wave y.a 1 = false ∧ beyondGrant seat.wave y.b 1 = false ∧ beyondGrant seat.wave y.d 1 = false ∧
      destBusy seat y.d 1 = false) ∧
      ∀ l ∈ seat.active, (readOp st seat (if (seat.wave.readP 1 l).val then y.a else y.b) 1 l).full = true) ∧
    (Meets st z seat ∧ Readable st seat [srcB z 1] z.d 1 ∧ Sound st seat [srcB z 1] ∧ beyondGrant seat.wave z.a 1 = false ∧
      (readOp st seat z.a 1 0).full = true) :=
  ⟨⟨seated _ rfl rfl, by decide, ready (by decide), by decide⟩, ⟨seated _ rfl rfl, ready (by decide)⟩,
    ⟨seated _ rfl rfl, by decide, by decide⟩, ⟨seated _ rfl rfl, ready (by decide), sound (by decide), by decide, by decide⟩⟩

/-- An atomic of each sort, relaxed and releasing: nothing is dirty, so a release leaves the state as it is. -/
theorem witness_Atomics :
    let x : Fields := { x0 with d := .v 0, a := .v 4, b := .v 8, c := .v 12 }
    let y : Fields := { x with order := .rel, scope := .gd }
    (Fields.d x = .v 0 ∧ (Instr.atomAdd, Op.atomAdd, 0, true) ∈ atomicForms) ∧ Meets st x seat ∧ Meets st y seat ∧ seat.active ≠ [] ∧
    Readable st seat [srcA x 2, srcB x 1, noSrc x 1] x.d 1 ∧ Sound st seat [srcA x 2, srcB x 1, noSrc x 1] ∧ GuardSound seat x ∧
    Mapped st seat .g 4 true true [0] (fun l => (readOp st seat x.a 2 l).val) (fun _ => (0, 0, 0)) ∧
    Unheld st seat 3 (allRangeBits seat.wave .g 4 [0]) [] ∧ behindWrites seat.wave (sectorsAt .g 4 [(0, 0, 0)]) = false ∧
    unperformed seat.wave (maskOf seat.active) seat.wave.nextOp = false ∧ CanRelease st seat .gd := by
  refine ⟨⟨rfl, .head _⟩, seated _ rfl rfl, seated _ rfl rfl, by decide, ready (by decide), sound (by decide), guardSound (by decide),
    mapped (by decide) ?_, unheld (by decide), by decide, by decide, fun _ => by decide⟩
  intro l hl
  obtain rfl : l = 0 := by simpa using hl
  rfl

/-! ### Witnesses: order, barriers, gates -/

def pend0 : Pend :=
  { id := 7, kind := .store, cls := some 1, dst := .zero, size := 4, signed := false, alu := 0, space := .g, sspace := .g, order := .rlx,
    scope := .bk, left := [Access.at_ 0 (32, 32, 0)], lanes := 1, uniform := false, carried := 1, ranges := 2, seq := 9, rank := 0,
    done := false }

/-- G2 covers 4 KiB; one store is under way, counted in class 1 and in G1; a completed store of class 1 in sector 4, and a load that met a release of
sector 6. -/
def wBusy : Wave := { w0 with
  g := w0.g.set 2 { base := 0, limit := 0x1000 },
  pend := [pend0], issued := [2, 2, 0, 0, 0, 0], wrote := [{ cls := 1, rank := 0, scope := .gd, sector := 4 }],
  seen := [{ cls := 0, rank := 0, lanes := 1, waited := false, scope := .gd, va := 192, marks := [(1, { seq := 6, scope := .gd, inside := none, only := none })] }] }

/-- A sector of the wave's own core, and one of another core that the release met covers. -/
def mine0 : Dirty :=
  { core := 0, sector := 4, data := 0, mask := BitVec.allOnes 32, va := 128, first := 5, wave := 3, writes := 1, sent := false,
    releases := [] }
def other0 : Dirty :=
  { core := 1, sector := 5, data := 0, mask := 1, va := 160, first := 5, wave := 3, writes := 1, sent := false,
    releases := [] }

/-- A releasing and acquiring fence with a sector of each sort to write back; RANGE of a free and of a counted register; WAITCNT with a count
that is low enough, as an acquire and as a release, and not low enough. -/
theorem witness_Fences :
    let q : Fields := { x0 with a := .imm 4, order := .ar, scope := .gd }
    let r : Fields := { x0 with d := .g 1, a := .s 4, b := .s 6 }
    let k : Fields := { x0 with a := .imm 1 }
    let z : Fields := { x0 with a := .imm 0 }
    let s := world wBusy b0 g0 p0
    let c := seatOf wBusy b0 g0 p0
    let d := { s with dirty := [mine0, other0] }
    (Meets d q c ∧ c.active ≠ [] ∧ GuardSound c q ∧ countsZero d c.wave (maskBits q.a) = true ∧ mine0 ∈ d.dirty ∧ other0 ∈ d.dirty ∧
      insideMask (maskRanges c.wave q.a) mine0.va = true ∧
      promoted c .gd ((c.wave.seen.filter (fun e => e.lanes != 0 && insideMask (maskRanges c.wave q.a) e.va)).flatMap Seen.marks) other0 ∧
      ∀ k ∈ d.dirty, writable d c k ∧ d.backBad k = false) ∧
    (Meets st r seat ∧ GuardSound seat r ∧ Readable st seat [srcA r 2, srcB r 2] .zero 1 ∧ Sound st seat [srcA r 2, srcB r 2] ∧
      rangeCount st seat.wave 1 = 0) ∧
    (Meets s r c ∧ GuardSound c r ∧ Readable s c [srcA r 2, srcB r 2] .zero 1 ∧ Sound s c [srcA r 2, srcB r 2] ∧
      rangeCount s c.wave 1 ≠ 0) ∧
    (Meets d k c ∧ GuardSound c k ∧ c.wave.counter 1 = (bits32 d c k.a 0).toNat ∧ c.wave.copyError = false ∧
      (let awaited := fun (k rank : Nat) (cls : Nat) => k == cls && decide (rank + (bits32 d c (.imm 1) 0).toNat < c.wave.issued.getD cls 0)
       c.wave.wrote.filter (fun e => awaited e.cls e.rank 1) ≠ [] ∧ c.wave.seen.filter (fun e => ! e.waited && awaited e.cls e.rank 1) = [] ∧
       c.wave.seen.filter (fun e => ! e.waited && awaited e.cls e.rank 0) ≠ []) ∧
      c.wave.counter 0 ≤ (bits32 d c k.a 0).toNat) ∧
    (Meets s z c ∧ GuardSound c z ∧ (bits32 s c z.a 0).toNat < c.wave.counter 1) :=
  ⟨⟨seatedIn rfl rfl (by decide) (by decide), by decide, guardSound (by decide), by decide, by decide, by decide, by decide,
      ⟨by decide, by decide, by decide⟩, by unfold writable; decide⟩,
    ⟨seated _ rfl rfl, guardSound (by decide), ready (by decide), sound (by decide), by decide⟩,
    ⟨seatedIn rfl rfl (by decide) (by decide), guardSound (by decide), ready (by decide), sound (by decide), by decide⟩,
    ⟨seatedIn rfl rfl (by decide) (by decide), guardSound (by decide), by decide⟩, seatedIn rfl rfl (by decide) (by decide),
      guardSound (by decide), by decide⟩

/-- A dirty sector of the core, whose home is up, under a mask; and the persist fence of the module, whose window it is not in. -/
theorem witness_PersistFences :
    let x : Fields := { x0 with a := .zero }
    let d : Dirty := { core := 0, sector := 1, data := 0, mask := 1, va := 32, first := 5, wave := 3, writes := 1, sent := false, releases := [] }
    let s := { st with dirty := [d] }
    Meets s x seat ∧ seat.active ≠ [] ∧ GuardSound seat x ∧ writesPending s seat.wave (maskBits x.a) = false ∧
    insideMask (maskRanges seat.wave x.a) d.va = true ∧ d.core = seat.core ∧ writable s seat d ∧ s.backBad d = false ∧
    persistentSector d.sector = false ∧
    (seat.wave.pend.any (fun p => isGlobal p.space && ! p.isLoad && p.left.any (fun a => persistentSector (a.addr / 32)))
      || (s.copies.filter (fun k => k.wave == seat.wave.uid && k.kind == .store && ! k.left.isEmpty)).any (copyPersists s seat.part seat.die)) = false :=
  ⟨seatedIn rfl rfl (by decide) (by decide), by decide, guardSound (by decide), by decide, by decide, by decide, ⟨by decide, by decide⟩,
    by decide, by decide, by decide⟩

/-- The wave waits for phase 0 of BB1 while that barrier runs phase 1. -/
def wWait : Wave := { w0 with wait := some (.barrier 17 0), arrivals := [(17, 0)] }
def wJoined : Wave := { w0 with arrivals := [(17, 0)] }
def bNext : Block := { b0 with bb := [(1, { arr := 1, ph := 1, stat := 0, last := 0 })] }

/-- BB2 with COUNT 1, BB1 with COUNT 2, WB0, and BB1 one phase on. -/
theorem witness_Barriers :
    let one : Fields := { x0 with d := .v 0, a := .bar 1 2 }
    let two : Fields := { x0 with d := .v 0, a := .bar 1 1 }
    let tok : Fields := { two with d := .zero, b := .s 4, opt := 1 }
    let s := world wWait bNext g0 p0
    let c := seatOf wWait bNext g0 p0
    let t := world wJoined bNext g0 p0
    let e := seatOf wJoined bNext g0 p0
    (Meets st one seat ∧ seat.active ≠ [] ∧ Whole seat ∧ declared seat (barKey one.a) ∧ isQuiet seat.wave = true ∧
      CanRelease st seat (barScope (barKey one.a)) ∧ Readable st seat [] one.d 1 ∧
      (barrierOf seat.grid seat.block (barKey one.a)).arr + 1 = seat.grid.count (barKey one.a) ∧ seat.wave.wait = none) ∧
    (Meets st two seat ∧ declared seat (barKey two.a) ∧ isQuiet seat.wave = true ∧ CanRelease st seat (barScope (barKey two.a)) ∧
      (barrierOf seat.grid seat.block (barKey two.a)).arr + 1 ≠ seat.grid.count (barKey two.a)) ∧
    (Meets st { x0 with a := .bar 0 0 } seat ∧ barKey (.bar 0 0) = 0) ∧
    (Meets s two c ∧ c.active ≠ [] ∧ declared c (barKey two.a) ∧ 1 ≤ ((barrierOf c.grid c.block (barKey two.a)).ph - 0).toNat ∧
      ((barrierOf c.grid c.block (barKey two.a)).ph - 0).toNat ≤ 2 ^ 31 ∧ c.wave.wait = some (.barrier 17 0) ∧ Whole c ∧ two.opt.getLsbD 0 = false ∧ Readable s c [srcB two 1] .zero 1 ∧
      Sound s c [srcB two 1]) ∧
    (Meets t tok e ∧ declared e (barKey tok.a) ∧ Readable t e [srcB tok 1] .zero 1 ∧ Sound t e [srcB tok 1] ∧ tok.opt.getLsbD 0 = true ∧
      bits32 t e tok.b 0 = 0 ∧ ((barrierOf e.grid e.block (barKey tok.a)).ph - 0).toNat = 1) ∧
    (two.opt.getLsbD 0 = false ∧ e.wave.wait = none ∧ (e.wave.arrivals.find? (fun a => a.1 == barKey two.a)).map Prod.snd = some 0 ∧
      Readable t e [] two.d 2) := by
  refine ⟨⟨seated _ rfl rfl, by decide, ⟨by decide, by decide⟩, ⟨by decide, by decide, by decide⟩, by decide, fun _ => by decide, ready (by decide),
      by decide, rfl⟩,
    ⟨seated _ rfl rfl, ⟨by decide, by decide, by decide⟩, by decide, fun _ => by decide, by decide⟩, ⟨seated _ rfl rfl, by decide⟩,
    ⟨seatedIn rfl rfl (by decide) (by decide), by decide, ⟨by decide, by decide, by decide⟩, by decide, by decide, rfl, ⟨by decide, by decide⟩,
      by decide, ready (by decide), sound (by decide)⟩,
    ⟨seatedIn rfl rfl (by decide) (by decide), ⟨by decide, by decide, by decide⟩, ready (by decide), sound (by decide), by decide, by decide,
      by decide⟩,
    by decide, rfl, by decide, ready (by decide)⟩

/-- A grid that waits for gate 3 and opens gate 4. -/
def gGated : Grid := { g0 with wgate := some { gate := 3, gen := 0 }, ogate := some { gate := 4, gen := 0 } }
def gate_ (n : Nat) (o : Bool) : Generation := { gate := n, gen := 0, opener := if n = 4 then 1 else 9, isOpen := o }
def pGates (o : Bool) : Part := { p0 with gates := [gate_ 3 o, gate_ 4 false] }

theorem witness_Gates :
    (Meets st x0 seat ∧ seat.active ≠ [] ∧ seat.grid.wgate = none ∧ seat.grid.ogate = none) ∧
    (let s := world w0 b0 gGated (pGates true)
     let c := seatOf w0 b0 gGated (pGates true)
     Meets s x0 c ∧ c.active ≠ [] ∧ gateIsOpen c.part c.grid = true ∧ c.grid.ogate = some { gate := 4, gen := 0 } ∧ c.block.opened = false ∧
      isQuiet c.wave = true ∧ CanRelease s c .gd ∧ c.block.task = false ∧
      c.grid.blockCount ≤ (if c.grid.opened.contains c.block.lin then c.grid.opened else c.block.lin :: c.grid.opened).length ∧
      ∃ p, s.part? c.grid.part = some p ∧ ∃ g ∈ p.gates, g.opener = c.grid.id) ∧
    (let c := seatOf w0 b0 gGated (pGates false)
     Meets (world w0 b0 gGated (pGates false)) x0 c ∧ gateIsOpen c.part c.grid = false) :=
  ⟨⟨seated _ rfl rfl, by decide, rfl, rfl⟩,
    ⟨seatedIn rfl rfl (by decide) (by decide), by decide, by decide, rfl, rfl, by decide, fun _ => by decide, rfl, by decide, pGates true, by decide,
      gate_ 4 false, by decide, by decide⟩,
    seatedIn rfl rfl (by decide) (by decide), by decide⟩

/-! ### Witnesses: copies, tags, the matrix engine -/

/-- S8 to S15 hold the record of a tile of 4 rows of 16 bytes at address 0 of a tensor 16 wide. -/
def wRec : Wave := { w0 with s := [(10, 16), (11, 4), (12, 64), (13, 4), (14, 0x00040010)].map (fun e => (e.1, { val := e.2, full := true, pz := false })) }

theorem spanOk {s : State} {c : Issue} {base span : Nat} {write : Bool}
    (h : (match checkSpan s c base span write with | .ok _ => true | .error _ => false) = true) : checkSpan s c base span write = .ok () := by
  cases e : checkSpan s c base span write with
  | error => simp [e] at h
  | ok u => rfl

/-- A load of the tile into T3; and its delivery to the issuing block itself. -/
theorem witness_TensorCopies :
    let x : Fields := { x0 with d := .t 3, a := .s 8, space := .sp }
    let s := world wRec b0 g0 p0
    let c := seatOf wRec b0 g0 p0
    let r := readRecord s c x.a
    let y : Fields := { x0 with d := .t 3, a := .s 8, b := .s 16, c := .s 18 }
    let m := cpmOf s c y
    (Meets s x c ∧ c.active ≠ [] ∧ Readable s c [srcA x 8] .zero 1 ∧ Sound s c [srcA x 8] ∧ GuardSound c x ∧ tagRank s c x.d < c.block.alloc.tag ∧
      recFault r = none ∧ recDoff r % 128 = 0 ∧ recTotal r = 64 ∧ inGrant s c x.space (recDoff r) (recTotal r) = true ∧
      s.tagPending c.block.uid (tagRank s c x.d) = false ∧ accessHeld c.wave = false ∧
      checkSpan s c (recBase r) (recSpan r) (x.opt.getLsbD 0) = .ok () ∧ ∀ i, i < 9 → rangeCount s c.wave i < 63) ∧
    (Meets s y c ∧ Readable s c [srcA y 8, srcB y 2, srcC y 1, srcD y 1] .zero 1 ∧ Sound s c [srcA y 8, srcB y 2, srcC y 1, srcD y 1] ∧
      GuardSound c y ∧ cpmFault r m = none ∧ m.count = 1 ∧ receiverOf s c m 0 = some c.block ∧
      recDoff r + 0 * m.stride + m.bytes r ≤ c.block.alloc.spm * Config.spmBytes ∧ checkSpan s c (recBase r) (recSpan r) false = .ok ()) :=
  ⟨⟨seatedIn rfl rfl (by decide) (by decide), by decide, ready (by decide), sound (by decide), guardSound (by decide), by decide, by decide, by decide,
      by decide, by decide, by decide, by decide, spanOk (by decide), by decide⟩,
    seatedIn rfl rfl (by decide) (by decide), ready (by decide), sound (by decide), guardSound (by decide), by decide, by decide, by decide, by decide,
      spanOk (by decide)⟩

/-- T0 is ready with no chunk missing, T1 still has its first chunk to come. -/
def bTags : Block := { b0 with tags := [(0, { map := BitVec.allOnes 64, failed := none }), (1, { map := BitVec.allOnes 64 <<< 1, failed := none })] }

theorem witness_Tags :
    let x : Fields := { x0 with d := .s 0, a := .imm 1 }
    let both : Fields := { x0 with a := .imm 3 }
    let y : Fields := { x0 with d := .p 1, a := .t 1, b := .imm 2 }
    let z : Fields := { y with b := .imm 1 }
    let s := world w0 bTags g0 p0
    let c := seatOf w0 bTags g0 p0
    let ready' := fun (n : Nat) => (c.block.tag n).map == BitVec.allOnes 64
    (Meets s x c ∧ c.active ≠ [] ∧ Readable s c [srcA x 2] .zero 1 ∧ Sound s c [srcA x 2] ∧ bits64 s c x.a 0 = 1 ∧ bits64 s c both.a 0 = 3 ∧
      0 < c.block.alloc.tag ∧ ready' 0 = true ∧ ready' 1 = false ∧ (c.block.tag 0).failed = none ∧ Readable s c [srcA x 2] x.d 1) ∧
    (Meets s y c ∧ Sound s c [srcB y 2] ∧ tagRank s c y.a < c.block.alloc.tag ∧ (c.block.tag (tagRank s c y.a)).failed = none ∧
      Readable s c [srcB y 2] y.d 1 ∧ Readable s c [srcB y 2] .zero 1 ∧
      ((c.block.tag (tagRank s c y.a)).map &&& bits64 s c y.b 0 == bits64 s c y.b 0) = true ∧
      ((c.block.tag (tagRank s c z.a)).map &&& bits64 s c z.b 0 == bits64 s c z.b 0) = false ∧
      s.tagPending c.block.uid (tagRank s c y.a) = false) :=
  ⟨⟨seatedIn rfl rfl (by decide) (by decide), by decide, ready (by decide), sound (by decide), by decide, by decide, by decide, by decide, by decide,
      by decide, ready (by decide)⟩,
    seatedIn rfl rfl (by decide) (by decide), sound (by decide), by decide, by decide, ready (by decide), ready (by decide), by decide, by decide,
      by decide⟩

def waiting (k : Wait) : Wave := { w0 with wait := some k }

/-- A parameter block of zeros but M = N = K = 1, both operands in registers, slot 0 for the result. -/
def bMx : Block := { b0 with sp := [(0, 1), (2, 1), (4, 1), (24, 1)] }

theorem blockOk {s : State} {c : Issue} {pb : List Word}
    (h : (match checkBlock s c pb with | .ok _ => true | .error _ => false) = true) : checkBlock s c pb = .ok () := by
  cases e : checkBlock s c pb with
  | error => simp [e] at h
  | ok u => rfl

theorem witness_MatrixOperations :
    let x : Fields := { x0 with a := .s 4 }
    let q : Fields := { x0 with d := .s 28, a := .imm 0 }
    let s := world w0 bMx g0 p0
    let c := seatOf w0 bMx g0 p0
    let off := (bits32 s c x.a 0).toNat
    let pb := readBlock s c off
    (Meets s x c ∧ c.active ≠ [] ∧ Readable s c [srcA x 1] .zero 1 ∧ Sound s c [srcA x 1] ∧ GuardSound c x ∧ off % 64 = 0 ∧
      off + 64 ≤ c.block.alloc.spm * Config.spmBytes ∧ spWritesPending c.wave = false ∧
      (∀ i, i < 16 → s.sramIsBad c.block.uid false (off + 4 * i) = false) ∧ checkBlock s c pb = .ok () ∧ mxWaits c pb = false ∧
      c.wave.counter 5 < 63 ∧ c.wave.wait = none) ∧
    (let w := waiting (.matrix (readBlock s c 0))
     let b := { bMx with accs := [(0, { e := 0, elems := [], busy := true })] }
     Meets (world w b g0 p0) x (seatOf w b g0 p0) ∧ w.wait = some (.matrix (readBlock s c 0)) ∧
      checkBlock (world w b g0 p0) (seatOf w b g0 p0) (readBlock s c 0) = .ok () ∧ mxWaits (seatOf w b g0 p0) (readBlock s c 0) = true) ∧
    (Meets s q c ∧ Readable s c [srcA q 1] q.d 2 ∧ Sound s c [srcA q 1] ∧ (bits32 s c q.a 0).toNat < c.block.alloc.mxe) :=
  ⟨⟨seatedIn rfl rfl (by decide) (by decide), by decide, ready (by decide), sound (by decide), guardSound (by decide), by decide, by decide, by decide,
      by decide, blockOk (by decide), by decide, by decide, by decide⟩,
    ⟨seatedIn rfl rfl (by decide) (by decide), rfl, blockOk (by decide), by decide⟩, seatedIn rfl rfl (by decide) (by decide), ready (by decide), sound (by decide), by decide⟩

/-- Slot 1 belongs to a matrix operation under way. -/
def bAcc : Block := { b0 with accs := [(1, { e := 0, elems := [], busy := true })] }

/-- A tile at the start of the scratchpad, and one in memory. -/
theorem witness_Accumulators :
    let x : Fields := { x0 with a := .imm 0, b := .imm 5 }
    let y : Fields := { x0 with a := .imm 1, b := .imm 5 }
    let v : Fields := { x0 with d := .v 0, a := .imm 0, b := .imm 31, ty := .bf16 }
    let t : Fields := { x0 with d := .s 4, a := .imm 0, ty := .bf16, opt := 1 }
    let l : Fields := { x0 with a := .imm 0, b := .s 4, c := .imm 2, ty := .bf16, opt := 1 }
    let s := world w0 bAcc g0 p0
    let c := seatOf w0 bAcc g0 p0
    let p : TileAt := { owner := 2, off := 0, phys := [] }
    (Meets s x c ∧ c.active ≠ [] ∧ Readable s c [srcA x 1, srcB x 1] .zero 1 ∧ Sound s c [srcA x 1, srcB x 1] ∧
      (bits32 s c x.a 0).toNat < c.block.alloc.acc ∧ (c.block.acc (bits32 s c x.a 0).toNat).busy = false) ∧
    (Meets s y c ∧ Readable s c [srcA y 1, srcB y 1] .zero 1 ∧ Sound s c [srcA y 1, srcB y 1] ∧
      (c.block.acc (bits32 s c y.a 0).toNat).busy = true) ∧
    (Meets s v c ∧ Readable s c [srcA v 1, srcB v 1] v.d (effectiveTy .acvt v).regs ∧ Sound s c [srcA v 1, srcB v 1] ∧
      (bits32 s c v.a 0).toNat < c.block.alloc.acc ∧ (c.block.acc (bits32 s c v.a 0).toNat).busy = false ∧
      ∀ k ∈ c.active, (bits32 s c v.b k).toNat < 32) ∧
    (Meets s t c ∧ Readable s c [srcA t 1, srcD t (addrRegs (optSpace t))] .zero 1 ∧ Sound s c [srcA t 1, srcD t (addrRegs (optSpace t))] ∧
      GuardSound c t ∧
      locateTile s c (optSpace t) (readOp s c t.d (addrRegs (optSpace t)) 0).val (tileBytes (effectiveTy .acst t)) false true = .ok p ∧
      (c.block.acc 0).busy = false ∧ tileWaits c (optSpace t) (tileBytes (effectiveTy .acst t)) p = false ∧ (∀ q ∈ p.phys, s.homeUp c.part q = true) ∧
      tileTainted (c.block.acc 0) .bf16 = false ∧ (∀ i, i < 9 → rangeCount s c.wave i < 63) ∧ (s.block? p.owner).isSome = true) ∧
    (Meets s l c ∧ Readable s c [srcA l 1, srcB l (addrRegs (optSpace l)), srcC l 1] .zero 1 ∧
      Sound s c [srcA l 1, srcB l (addrRegs (optSpace l)), srcC l 1] ∧ GuardSound c l ∧
      locateTile s c (optSpace l) (readOp s c l.b (addrRegs (optSpace l)) 0).val (tileBytes (effectiveTy .acld l)) true false = .ok p ∧
      tileWaits c (optSpace l) (tileBytes (effectiveTy .acld l)) p = false ∧ (c.block.acc (bits32 s c l.a 0).toNat).busy = false ∧
      (∀ a ∈ p.phys, s.homeUp c.part a = true) ∧ ∀ i, i < 9 → rangeCount s c.wave i < 63) := by
  refine ⟨⟨seatedIn rfl rfl (by decide) (by decide), by decide, ready (by decide), sound (by decide), by decide, by decide⟩,
    ⟨seatedIn rfl rfl (by decide) (by decide), ready (by decide), sound (by decide), by decide⟩,
    ⟨seatedIn rfl rfl (by decide) (by decide), ready (by decide), sound (by decide), by decide, by decide, by decide⟩,
    ⟨seatedIn rfl rfl (by decide) (by decide), ready (by decide), sound (by decide), guardSound (by decide), rfl, by decide, by decide,
      by decide, ?_, by decide, by decide⟩,
    ⟨seatedIn rfl rfl (by decide) (by decide), ready (by decide), sound (by decide), guardSound (by decide), rfl, by decide, by decide, by decide,
      by decide⟩⟩
  simp only [tileTainted]
  rw [Bool.and_eq_false_iff]
  exact .inr (List.any_eq_false.2 (fun i _ => by rw [show (accConverted ((seatOf w0 bAcc g0 p0).block.acc 0) Ty.bf16 i).pz = false from rfl]; decide))

/-! ### Witnesses: claims, channels, tasks, the handler level -/

/-- An ACQ of nothing and one of eight units, one that the checker has granted, one that it has deferred; a FREE of eight
units. -/
theorem witness_Claims :
    let x : Fields := { x0 with d := .s 20, a := .imm 0 }
    let y : Fields := { x0 with d := .s 20, a := .imm 8 }
    let f : Fields := { x0 with a := .imm 8 }
    let v : Fields := { x0 with d := .s 20 }
    let s := world (waiting (.granted 5)) b0 g0 p0
    let c := seatOf (waiting (.granted 5)) b0 g0 p0
    let t := world (waiting (.deferred 6)) b0 g0 p0
    let e := seatOf (waiting (.deferred 6)) b0 g0 p0
    (Meets st x seat ∧ seat.active ≠ [] ∧ Readable st seat [srcA x 1] .zero 1 ∧ Sound st seat [srcA x 1] ∧ seat.wave.wait = none ∧
      st.deferredOf seat.block.cluster seat.wave.uid = none ∧ destBusy seat x.d 1 = false ∧ (bits32 st seat x.a 0).toNat = 0) ∧
    (Meets st y seat ∧ Readable st seat [srcA y 1] .zero 1 ∧ Sound st seat [srcA y 1] ∧ (bits32 st seat y.a 0).toNat ≠ 0 ∧
      (st.cluster seat.block.cluster).gck.queue.length < 16) ∧
    (Meets s y c ∧ Readable s c [srcA y 1] .zero 1 ∧ Sound s c [srcA y 1] ∧ c.wave.wait = some (.granted 5)) ∧
    (Meets t y e ∧ Readable t e [srcA y 1] .zero 1 ∧ Sound t e [srcA y 1] ∧ e.wave.wait = some (.deferred 6)) ∧
    (match seat.wave.wait with | some (.granted _) | some (.deferred _) | some .exceeded | some .grant | some .fifoFull => False | _ => True) ∧
    (Meets st f seat ∧ Readable st seat [srcA f 1] .zero 1 ∧ Sound st seat [srcA f 1] ∧
      ∀ kind : Fin 6, kind ≠ 4 → (bits32 st seat f.a 0).toNat ≤ allocOf seat.wave seat.block kind ∧ freeBusy st seat kind 8 = false) ∧
    (Meets st v seat ∧ Readable st seat [] v.d 4) :=
  ⟨⟨seated _ rfl rfl, by decide, ready (by decide), sound (by decide), rfl, by decide, by decide, by decide⟩,
    ⟨seated _ rfl rfl, ready (by decide), sound (by decide), by decide, by decide⟩,
    ⟨seatedIn rfl rfl (by decide) (by decide), ready (by decide), sound (by decide), rfl⟩,
    ⟨seatedIn rfl rfl (by decide) (by decide), ready (by decide), sound (by decide), rfl⟩,
    .intro, ⟨seated _ rfl rfl, ready (by decide), sound (by decide), by decide⟩, seated _ rfl rfl, ready (by decide)⟩

/-- Slot 0 sends to endpoint 5 with an allowance of 1, slot 1 receives from it, slot 15 is a closed sender. -/
def bChan : Block := { b0 with c := [0xA0050001, 0xC0050000] ++ List.replicate 13 0 ++ [0xB0060000] }

theorem witness_Channels :
    let x : Fields := { x0 with a := .c 0, b := .s 5 }
    let y : Fields := { x0 with d := .s 0, a := .c 1 }
    let z : Fields := { x0 with d := .s 0, a := .c 15 }
    let s := world w0 bChan g0 p0
    let c := seatOf w0 bChan g0 p0
    let e := fun (x : Fields) => c.block.c.getD (slotIndex s c x.a) 0
    (Meets s x c ∧ c.active ≠ [] ∧ GuardSound c x ∧ Sound s c [srcA x 1] ∧ slotIndex s c x.a ≤ 15 ∧ (e x).getLsbD 31 = true ∧
      Readable s c [srcA x 1, srcB x 1] x.d 1 ∧ Sound s c [srcB x 1] ∧ slotPerm (e x) = 1 ∧ slotAllow (e x) ≠ 0 ∧ slotClosed (e x) = false ∧
      accessHeld c.wave = false ∧ isQuiet c.wave = true ∧ CanRelease s c .gd ∧ c.block.task = false ∧ Readable s c [srcA x 1] x.d 1) ∧
    (Meets s y c ∧ GuardSound c y ∧ Sound s c [srcA y 1] ∧ slotIndex s c y.a ≤ 15 ∧ (e y).getLsbD 31 = true ∧ Readable s c [srcA y 1] y.d 2 ∧
      slotPerm (e y) = 2 ∧ accessHeld c.wave = false) ∧
    (Meets s z c ∧ slotIndex s c z.a ≤ 15 ∧ (e z).getLsbD 31 = true ∧ slotClosed (e z) = true ∧ Readable s c [srcA z 1] z.d 1) :=
  ⟨⟨seatedIn rfl rfl (by decide) (by decide), by decide, guardSound (by decide), sound (by decide), by decide, by decide, ready (by decide),
      sound (by decide), by decide, by decide, by decide, by decide, by decide, fun _ => by decide, rfl, ready (by decide)⟩,
    ⟨seatedIn rfl rfl (by decide) (by decide), guardSound (by decide), sound (by decide), by decide, by decide, ready (by decide), by decide,
      by decide⟩,
    seatedIn rfl rfl (by decide) (by decide), by decide, by decide, by decide, ready (by decide)⟩

/-- One record for the lane, whose entry is instruction 0; the arena starts at address 0. -/
theorem witness_TaskSpawn :
    let x : Fields := { x0 with d := .v 16, a := .v 0 }
    let lanes := if isVReg x.a then seat.active else seat.active.take 1
    Meets st x seat ∧ seat.active ≠ [] ∧ GuardSound seat x ∧ Readable st seat [srcA x 16] x.d 1 ∧ Sound st seat [srcA x 16] ∧
    (∀ l ∈ lanes, (readOp st seat x.a 16 l).val % 2 ^ 32 % 12 = 0 ∧ (readOp st seat x.a 16 l).val % 2 ^ 32 < seat.grid.codesz) ∧
    lanes.length = 1 ∧ seat.wave.spawned = 0 ∧ seat.part.tasks.length + lanes.length ≤ 8192 ∧ arenaPhys st seat 0 = .ok 0 ∧ 0 % 64 = 0 ∧ st.dirty = [] :=
  ⟨seated _ rfl rfl, by decide, guardSound (by decide), ready (by decide), sound (by decide), by decide, by decide, rfl, by decide, rfl, rfl, rfl⟩

/-- Dispenser 3 belongs to the grid. -/
def pDisp : Part := { p0 with dispensers := [(3, { grid := some 1, x := 4, y := 1, i := 0 })] }

/-- A query; and waits for a time that has come and for one that has not. -/
theorem witness_DispenserAndTime :
    let x : Fields := { x0 with a := .imm 3, b := .imm 1, c := .imm 64 }
    let y : Fields := { x0 with d := .v 0, a := .imm 0 }
    let z : Fields := { x0 with d := .v 0, a := .imm 9 }
    let s := world w0 b0 g0 pDisp
    let c := seatOf w0 b0 g0 pDisp
    (Meets s x c ∧ c.active ≠ [] ∧ GuardSound c x ∧ Readable s c [srcA x 1, srcB x 1, srcC x 1] .zero 1 ∧
      Sound s c [srcA x 1, srcB x 1, srcC x 1] ∧ (bits32 s c x.a 0).toNat < 16 ∧
      (c.part.dispenser (bits32 s c x.a 0).toNat).grid = some c.grid.id ∧ (bits32 s c x.b 0).toNat < c.block.alloc.tag ∧
      (bits32 s c x.c 0).toNat + 4 ≤ c.block.alloc.spm * Config.spmBytes ∧ (bits32 s c x.c 0).toNat % 4 = 0 ∧
      s.tagPending c.block.uid (bits32 s c x.b 0).toNat = false) ∧
    (Meets st y seat ∧ seat.active ≠ [] ∧ Readable st seat [srcA y 2] y.d 2 ∧ Sound st seat [srcA y 2] ∧
      (bits64 st seat y.a 0).toNat ≤ st.timeOf seat.part) ∧
    (Meets st z seat ∧ Readable st seat [srcA z 2] z.d 2 ∧ Sound st seat [srcA z 2] ∧ st.timeOf seat.part < (bits64 st seat z.a 0).toNat) :=
  ⟨⟨seatedIn rfl rfl (by decide) (by decide), by decide, guardSound (by decide), ready (by decide), sound (by decide), by decide, by decide, by decide,
      by decide, by decide, by decide⟩,
    ⟨seated _ rfl rfl, by decide, ready (by decide), sound (by decide), by decide⟩, seated _ rfl rfl, ready (by decide), sound (by decide), by decide⟩

/-- A wave that arrives at a REORD by V7 with a window of V0 to V3; and the same wave held there, the only one of its block. -/
theorem witness_Regrouping :
    let x : Fields := { x0 with a := .v 7, b := .imm32 0x00000F }
    let w := waiting (.regroup x)
    let s := world w b0 g0 p0
    let h : Held := { issue := seatOf w b0 g0 p0, x := x, regs := [0, 1, 2, 3] }
    (st.issue? x = some seat ∧ Whole seat ∧ beyondGrant seat.wave x.a 1 = false ∧ Readable st seat [srcB x 1] .zero 1) ∧
    (s.block? b0.uid = some b0 ∧ ((s.wavesOf b0.uid).filter (fun w => w.liveLanes != [])).map s.heldAt = [h].map some ∧
      regroupFault s (s.wavesOf b0.uid) [h] = none ∧ settled s b0.cluster h = true ∧ keysFull s h = true ∧
      h.issue.pc + 12 < h.issue.codeSize) :=
  ⟨⟨by decide, ⟨by decide, by decide⟩, by decide, ready (by decide)⟩, by decide, by decide, by decide, by decide, by decide, by decide⟩

/-- A wave that runs its handler. -/
def wHandler : Wave := { w0 with handler := true }

theorem witness_HandlerLevel :
    let x : Fields := { x0 with d := .s 1, a := .imm 11, b := .s 2 }
    let y : Fields := { x0 with d := .s 1, a := .imm 3 }
    let z : Fields := { x0 with a := .s 4, b := .imm 1 }
    let s := world wHandler b0 g0 p0
    let c := seatOf wHandler b0 g0 p0
    Meets s x c ∧ c.active ≠ [] ∧ c.wave.handler = true ∧ Sound s c [srcA x 1] ∧ (bits32 s c x.a 0).toNat = 11 ∧
    Readable s c [srcA x 1] x.d 1 ∧ Readable s c [srcA x 1, srcB x 1] .zero 1 ∧ Sound s c [srcB x 1] ∧ s.issue? x0 = some c ∧ Whole c ∧
    c.wave.trap.rpc.toNat % 12 = 0 ∧ c.wave.trap.rpc.toNat < c.grid.codesz ∧ Readable s c [srcA x 1] .zero 1 ∧
    Meets s y c ∧ Readable s c [] y.d 1 ∧ Meets s z c ∧ Readable s c [srcA z 2, srcB z 1] .zero 1 ∧ Sound s c [srcA z 2, srcB z 1] ∧
    usesPages s c.part (bits64 s c z.a 0).toNat (bits32 s c z.b 0).toNat = false :=
  ⟨seatedIn rfl rfl (by decide) (by decide), by decide, rfl, sound (by decide), by decide, ready (by decide), ready (by decide), sound (by decide),
    by decide, ⟨by decide, by decide⟩, by decide, by decide, ready (by decide), seatedIn rfl rfl (by decide) (by decide), ready (by decide),
    seatedIn rfl rfl (by decide) (by decide), ready (by decide), sound (by decide), by decide⟩

/-! ### Witnesses: what returns, caches, faults, engines -/

def pLoad : Pend := { pend0 with kind := .load, cls := some 0, dst := .v 0, order := .acq, scope := .gd }
def pStore : Pend := { pend0 with left := [{ Access.at_ 0 (32, 32, 0) with data := [1, 2, 3, 4] }], order := .rel, scope := .gd }
def pCopy : Pend := { pend0 with kind := .copy, cls := some 2, space := .sp, sspace := .g, left := [{ Access.at_ 0 (64, 0, 2) with src := 32 }] }
def pAtom : Pend := { pend0 with kind := .atomic, cls := some 3, dst := .v 0 }
def pRecv : Pend := { pend0 with kind := .receive, cls := none, dst := .s 0, left := [Access.at_ 0 (5, 0, 0)], ranges := 0 }
def fly (p : Pend) : Flying := { wave := { w0 with pend := [p] }, block := b0, grid := g0, part := p0, pend := p }
def flyIn (p : Pend) : State := world { w0 with pend := [p] } b0 g0 p0

theorem witness_DataReturns :
    ((flyIn pLoad).flying? 3 7 = some (fly pLoad) ∧ pLoad.kind = .load ∧ pLoad.left ≠ [] ∧ (∀ a ∈ pLoad.left, a.lane < 32) ∧
      (pLoad.left.map Access.lane).Nodup ∧ (fly pLoad).blocked (pLoad.left.flatMap (fly pLoad).spotsOf) = false ∧
      (∀ a ∈ pLoad.left, windowHolds (flyIn pLoad) (fly pLoad) a.addr = false ∧ homesUp (flyIn pLoad) (fly pLoad) a = true) ∧
      (∀ x ∈ ((pLoad.left.flatMap (accessSpans (fly pLoad))).map Prod.fst).eraseDups, x = 1) ∧
      ∀ d ∈ ({ flyIn pLoad with dirty := [other0] } : State).dirty, (flyIn pLoad).acquireSet 0 5 .gd d = true ∧
        (flyIn pLoad).l1Up d.core = true ∧ (flyIn pLoad).homeUp p0 (32 * d.sector) = true ∧ (flyIn pLoad).backBad d = false) ∧
    ((flyIn pStore).flying? 3 7 = some (fly pStore) ∧ pStore.kind = .store ∧
      pStore.left ≠ [] ∧ (∀ a ∈ pStore.left, a.data.length = pStore.size) ∧
      (fly pStore).blocked (pStore.left.flatMap (fly pStore).spotsOf) = false ∧ unperformed (fly pStore).wave pStore.lanes pStore.id = false ∧
      (∀ b ∈ pStore.left, homesUp (flyIn pStore) (fly pStore) b = true) ∧ pStore.scope.wideCl = true ∧
      CanPublish (flyIn pStore) (fly pStore) ((pStore.left.flatMap (accessSectors (fly pStore))).eraseDups) ∧ mine0.core = 0 ∧
      (flyIn pStore).homeUp p0 (32 * mine0.sector) = true ∧ (flyIn pStore).backBad mine0 = false) ∧
    ((flyIn pCopy).flying? 3 7 = some (fly pCopy) ∧ pCopy.kind = .copy ∧ pCopy.left ≠ [] ∧
      (fly pCopy).blocked pCopy.spots = false ∧ pCopy.scope.wideCl = false ∧ other0.core ≠ 0 ∧
      (flyIn pCopy).l1Up other0.core = true ∧ (flyIn pCopy).homeUp p0 (32 * other0.sector) = true ∧
      (flyIn pCopy).backBad other0 = false ∧ (∀ b ∈ pCopy.left, homesUp (flyIn pCopy) (fly pCopy) b = true) ∧ ∀ b ∈ pCopy.left.map (fun b => { b with addr := b.src }),
        homesUp (flyIn pCopy) { fly pCopy with pend := { pCopy with space := pCopy.sspace } } b = true) :=
  ⟨by decide, ⟨by decide, by decide, by decide, by decide, by decide, by decide, by decide, by decide, ⟨by decide, by decide, by decide, by decide⟩,
    by decide⟩, by decide⟩

/-- A request of ATOM.ADD at its home, performed or not; a CHRECV with a message, on a closed pipe and on an open one; a TIME. -/
def request0 (performed : Bool) : Request :=
  { id := 40, home := 0, wave := 3, op := 7, core := 0, alu := 0, size := 4, signed := false, reply := true,
    accesses := [{ Access.at_ 0 (32, 32, 0) with b := 1 }], order := .rlx, scope := .gd, performed := performed,
    olds := if performed then [(0, 9, false)] else [], held := false }
def atHome (performed : Bool) : State := { flyIn pAtom with requests := [request0 performed] }
def pPipe (msgs : List Word) (closed : Bool) : Part := { p0 with channels := [{ endp := 5, lin := 0, msgs := msgs, closed := closed }] }
def wTime : Wave := waiting (.deadline 0 { x0 with d := .v 0, a := .imm 0 })

theorem witness_RepliesAndMessages :
    (let s := atHome false
     let r := request0 false
     s.requests.find? (fun q => q.id == r.id) = some r ∧ s.partOfCluster r.home = some p0 ∧ r.performed = false ∧ r.held = false ∧
      isFirstAtHome s r = true ∧ (s.cluster r.home).power = true ∧ (s.cluster r.home).svUsed < s.module.activity.sv ∧
      sectorsOf (r.accesses.map Access.addr) = [1] ∧ s.l1Up other0.core = true ∧ s.homeUp p0 32 = true ∧ behindLoads s r = false ∧
      r.wave ≠ orphanWave ∧ s.answerable r = true) ∧
    (let s := atHome true
     let os := repliesOf s 3 7 1
     s.flying? 3 7 = some (fly pAtom) ∧ os ≠ [] ∧ (s.cluster 0).power = true ∧ (os.map Prod.fst).Nodup ∧ ∀ o ∈ os, o.1 < 32) ∧
    ((∀ q ∈ [pPipe [8] false, pPipe [] true, pPipe [] false], let s := world { w0 with pend := [pRecv] } b0 g0 q
      s.wave? 3 = some { w0 with pend := [pRecv] } ∧ s.block? 2 = some b0 ∧ Wave.pend? { w0 with pend := [pRecv] } 7 = some pRecv ∧
      s.partOfCluster b0.cluster = some q ∧ s.part? q.id = some q ∧ pRecv.left = Access.at_ 0 (5, 0, 0) :: [] ∧ pRecv.kind = .receive ∧
      pRecv.dst = .s 0 ∧ (∀ r ∈ s.receivers 2 5, pRecv.seq ≤ r.seq)) ∧
      [pPipe [8] false, pPipe [] true, pPipe [] false].map (fun q => (q.channel 0 5).map (fun k => (k.msgs, k.closed))) =
        [some ([8], false), some ([], true), some ([], false)]) ∧
    (let x : Fields := { x0 with d := .v 0, a := .imm 0 }
     let s := world wTime b0 g0 p0
     let s1 : State := { s.reachTime p0 0 with issuing := 3 }
     let c := seatOf wTime b0 g0 p0
     s.wave? 3 = some wTime ∧ wTime.wait = some (.deadline 0 x) ∧ s.block? 2 = some b0 ∧ s.partOfCluster b0.cluster = some p0 ∧ s.canReachTime p0 0 = true ∧ Meets s1 x c ∧
      c.active ≠ [] ∧ Readable s1 c [srcA x 2] x.d 2 ∧ Sound s1 c [srcA x 2] ∧ (bits64 s1 c x.a 0).toNat ≤ s1.timeOf c.part) := by
  refine ⟨by decide, by decide, by decide, by decide, by decide, by decide, by decide, by decide, seatedIn rfl rfl (by decide) (by decide),
    by decide, ready (by decide), sound (by decide), by decide⟩

def dirty0 (sent : Bool) : Dirty :=
  { core := 0, sector := 1, data := 0, mask := 1, va := 32, first := 5, wave := 3, writes := 1, sent := sent,
    releases := [{ seq := 6, scope := .gd, inside := none, only := none }] }

theorem witness_CachesAndHomes :
    let d := dirty0 true
    let s := { st with dirty := [d] }
    s.partOfCluster (d.core / Config.coresPerCluster) = some p0 ∧ d.sent = true ∧ s.l1Up d.core = true ∧ s.homeUp p0 (32 * d.sector) = true ∧
    s.dirty.filter (fun e => e.core == d.core && e.sector == d.sector) = [d] ∧
    ((s.marksOn outsideCore 1).filter (fun m => m.1 == 0)) ≠ [] ∧ ∀ d ∈ s.dirty, s.homeUp p0 (32 * d.sector) = true := by decide

/-- Open faults of the wave, of a copy into a tag, of a packet's copy, and of a queue. -/
def faultOf (p : Party) : FaultEntry :=
  { die := 0, idx := some 0, part := 0, kind := 0, cluster := 0, core := 0, slot := 0, va := 0x20000, seq := 0, party := p }
def copyOf (k : CopyKind) : Copy :=
  { id := 50, kind := k, part := 0, block := 2, wave := 3, tag := 0, record := [0, 0, 16, 4, 64, 4, 0x00010004, 0], space := .sp, scope := .bk,
    left := [0], pieces := [], ranges := 0, common := 0, rows := 0, stride := 0, rtag := 0, receivers := [], slot := 0, index := 0, seq := 8 }
def parkedAs (p : Party) (k : CopyKind) : State := { st with faults := [faultOf p], copies := [copyOf k] }

/-- The bytes of code that nothing has written. -/
def noBytes : List Byte := List.replicate 12 0

theorem isOk {ε α : Type} [DecidableEq α] {e : Except ε α} {v : α} (h : (match e with | .ok r => decide (r = v) | .error _ => false) = true) :
    e = .ok v := by
  cases e with
  | error => simp at h
  | ok r => simpa using h

theorem witness_FaultBuffers :
    let s := parkedAs (.wave 3) .load
    let c := { seat with active := [] }
    (s.faultAt? 0 0 = some (faultOf (.wave 3)) ∧ s.wave? 3 = some c.wave ∧
      ({ s with issuing := 3 } : State).issue? (wordGuard (wordOfBytes noBytes)) = some c ∧ fetchBytes s c = .ok noBytes ∧
      fetchBytes s { c with active := c.group } = .ok noBytes ∧ c.wave.handler = false ∧ c.part.xlate.hsize ≠ 0) ∧
    ((parkedAs (.copy 50) .load).faultAt? 0 0 = some (faultOf (.copy 50)) ∧ (parkedAs (.copy 50) .load).copy? 50 = some (copyOf .load) ∧
      ((parkedAs (.copy 50) .load).block? (copyOf .load).block).isSome = true) ∧
    ((parkedAs (.copy 50) .packet).copy? 50 = some (copyOf .packet) ∧ (parkedAs (.copy 50) .packet).part? (copyOf .packet).part = some p0) ∧
    ((parkedAs (.queue 0 0) .load).faultAt? 0 0 = some (faultOf (.queue 0 0)) ∧ (parkedAs (.queue 0 0) .load).part? 0 = some p0 ∧
      usesPages (parkedAs (.queue 0 0) .load) p0 0 1 = false) :=
  ⟨⟨by decide, by decide, by decide, isOk (by decide), isOk (by decide), by decide, by decide⟩, by decide, by decide, by decide⟩

/-- A load and a store of a tile of four bytes in one chunk, a packet's copy of 32 bytes, a weight-store load of one chunk, a query unanswered and one answered. -/
def copying (k : Copy) : State := { st with parts := [pDisp], copies := [k] }
def kPacket : Copy := { copyOf .packet with record := [0x8000, 0, 0x9000, 0, 32], left := [0] }
def kWs : Copy := { copyOf .wsload with record := [0x8000, 0, 0, 1], left := [0] }
def kQuery (answer : List Word) : Copy := { copyOf .query with record := answer, slot := 3, index := 64 }

theorem fetched {n : Nat} {e : Except Reach (State × List Moved)}
    (h : (match e with | .ok r => decide (r.2.length = n) && ! r.2.any Prod.snd | .error _ => false) = true) :
    ∃ s1 ms, e = .ok (s1, ms) ∧ ms.length = n ∧ ms.any Prod.snd = false := by
  cases e with
  | error => simp at h
  | ok r => exact ⟨r.1, r.2, rfl, by simpa using h⟩

theorem fetchedThen {n : Nat} {e : Except Reach (State × List Moved)} {p : Part} {a : Nat} {as_ : List Nat}
    (h : (match e with
      | .ok r => decide (r.2.length = n) && ! r.2.any Prod.snd && (match feAddrs r.1 p a n true with | .ok v => decide (v = as_) | .error _ => false)
      | .error _ => false) = true) :
    ∃ s1 ms, e = .ok (s1, ms) ∧ ms.length = n ∧ ms.any Prod.snd = false ∧ feAddrs s1 p a n true = .ok as_ := by
  cases e with
  | error => simp at h
  | ok r =>
    simp only [Bool.and_eq_true, decide_eq_true_eq, Bool.not_eq_true'] at h
    refine ⟨r.1, r.2, rfl, h.1.1, h.1.2, ?_⟩
    have h2 := h.2
    cases e : feAddrs r.1 p a n true with
    | error => simp [e] at h2
    | ok v => simpa [e] using h2

theorem anyOf {α : Type} {o : Option α} {f : α → Bool} (h : o.any f = true) : ∃ a, o = some a ∧ f a = true := by
  cases o with
  | none => simp at h
  | some a => exact ⟨a, rfl, h⟩

theorem witness_CopyEngine :
    (let k := copyOf .load
     let s := copying k
     let spot := copyTile s k b0 g0
     let ts := chunkBytes (recTotal k.record) 0
     s.copy? k.id = some k ∧ s.part? k.part = some pDisp ∧ s.block? k.block = some b0 ∧ s.grid? b0.grid = some g0 ∧ 0 ∈ k.left ∧
      s.parked (.copy k.id) = false ∧ pDisp.served = true ∧
      (sectorsFrom (spot.2 + 512 * 0) ts.length).find? (fun y => ! k.pieces.contains (0, y)) = some 0 ∧
      copyBlocked s k (spadSpots false spot.1 (spot.2 + 512 * 0) ts.length ++ tileGlobal s pDisp (dieOfCluster b0.cluster) k.record ts false) = false ∧
      (∃ s1 ms, fetchTile s pDisp 0 k.record ts = .ok (s1, ms) ∧ ms.length = 4 ∧ ms.any Prod.snd = false) ∧ (s.block? spot.1).isSome = true) ∧
    (let k := copyOf .store
     let s := copying k
     let spot := copyTile s k b0 g0
     let ts := chunkBytes (recTotal k.record) 0
     let as_ : List (Option Nat) := [some 0, some 1, some 2, some 3]
     let va := fun (t : Nat) => (tileSource k.record t).getD 0
     let mine := (List.range (recTotal k.record)).filter (fun t => (tileSource k.record t).isSome && va t / 32 == va 0 / 32)
     s.copy? k.id = some k ∧ tileAddrs s pDisp (dieOfCluster b0.cluster) k.record ts true = .ok as_ ∧
      (sectorsOf (as_.filterMap id)).find? (fun y => ! k.pieces.contains (64, y)) = some 0 ∧
      ((List.zip ts as_).find? (fun t => t.2.any (fun a => a / 32 == 0))).map Prod.fst = some 0 ∧
      copyBlocked s k (mine.flatMap (fun t => spadSpots false spot.1 (spot.2 + t) 1) ++
        (sectorsOf (as_.filterMap id)).map (fun y => (0, 0, y))) = false ∧
      mine = [0, 1, 2, 3] ∧ (mine.map (fun t => 32 * 0 + va t % 32)).Nodup ∧ (∀ m ∈ mine, tileHalf k.record m = false ∧
        ∀ u ∈ chunkBytes (recTotal k.record) (m / 512), s.sramIsBad spot.1 false (spot.2 + u) = false) ∧
      k.scope.wideCl = false ∧ s.l1Up b0.coreIndex = true ∧ s.homeUp pDisp 0 = true) ∧
    (let s := copying kPacket
     s.copy? 50 = some kPacket ∧ 0 ∈ kPacket.left ∧
      max 0x9000 ((0x9000 / 32 + 0) * 32) = 0x9000 ∧ min (0x9000 + word kPacket.record 4) ((0x9000 / 32 + 0 + 1) * 32) = 0x9020 ∧
      (∃ s1 ms, fetchPacket s pDisp 0x8000 32 = .ok (s1, ms) ∧ ms.length = 32 ∧ ms.any Prod.snd = false ∧
        feAddrs s1 pDisp 0x9000 32 true = .ok ((List.range 32).map (0x9000 + ·))) ∧
      feAddrs s pDisp 0x9000 32 true = .ok ((List.range 32).map (0x9000 + ·)) ∧ ((List.range 32).map (0x9000 + ·)).Nodup) ∧
    (let s := copying kWs
     s.copy? 50 = some kWs ∧ (∃ s1 ms, fetchPacket s pDisp 0x8000 512 = .ok (s1, ms) ∧ ms.length = 512 ∧ ms.any Prod.snd = false) ∧ pDisp.id < 16 ∧
      word kWs.record 2 * 4096 + 512 * 0 + 512 ≤ Config.wsBytesPerDie) ∧
    (let k := kQuery []
     let s := copying k
     s.copy? 50 = some k ∧ k.record = [] ∧ (∀ q ∈ s.copies, q.kind = .query → q.wave = k.wave → q.slot = k.slot → q.record = [] → k.id ≤ q.id) ∧
      (pDisp.dispenser k.slot).i < (pDisp.dispenser k.slot).x * (pDisp.dispenser k.slot).y) ∧
    (let k := kQuery [7]
     let s := copying k
     s.copy? 50 = some k ∧ k.record = 7 :: [] ∧ copyBlocked s k (spots .sp k.block k.index.toNat 4) = false ∧
      (s.block? k.block).isSome = true) :=
  ⟨⟨by decide, by decide, by decide, by decide, by decide, by decide, by decide, by decide, by decide, fetched (by decide), by decide⟩,
    ⟨by decide, isOk (by decide), by decide, by decide, by decide, by decide, by decide, by decide, by decide, by decide, by decide⟩,
    ⟨by decide, by decide, by decide, by decide, fetchedThen (by decide +kernel), isOk (by decide), by decide⟩,
    ⟨by decide, fetched (by decide +kernel), by decide, by decide⟩,
    by decide, by decide⟩

/-- The operation that `bMx` describes, under way in context 0 and at its only step. -/
def mx0 : MxOp :=
  { wave := 3, pend := 7, pb := [0x00010001, 1, 0, 0, 0, 0, 1] ++ List.replicate 9 0, live := 1, nan := false, range := false, wrap := false,
    residue := false, preempted := false, count := 0, flagged := false, carry := [] }
def bStep (k : Nat) : Block := { b0 with ctxs := [(0, { status := 0, progress := BitVec.twoPow 32 26, op := some { mx0 with
  pb := mx0.pb.set 1 (BitVec.ofNat 32 k) } })] }
def kMulti (started : Bool) : Copy :=
  { copyOf .multi with rows := 1, receivers := [{ block := 2, left := [0], started := started }] }

theorem witness_MatrixStepsAndDeliveries :
    (∀ k ∈ [1, 65], let s := world w0 (bStep k) g0 p0
      let o := { mx0 with pb := mx0.pb.set 1 (BitVec.ofNat 32 k) }
      s.block? 2 = some (bStep k) ∧ ((bStep k).ctx 0).op = some o ∧ s.grid? 1 = some g0 ∧ s.part? 0 = some p0 ∧
      0 < pbT o.pb ∧ 0 < pbJ o.pb ∧ Sparse.isWf 0 o.carry = true ∧ (∀ a ∈ stepBanks g0 o.pb 0 0, inWindow (s.timeOf p0) (wsBank a) = false) ∧
      (0 + 1 < pbJ o.pb ∨ 0 + 1 < pbT o.pb ↔ k = 65) ∧ s.wave? o.wave = some w0) ∧
    (∀ started ∈ [true, false],
     let k := kMulti started
     let s := { st with copies := [k] }
     let s0 := (if started then s else startReceiver s 2 k.rtag k.share).setCopy (kMulti true)
     let ts := (chunkBytes k.share 0).map (deliveredByte k 0)
     s.copy? 50 = some k ∧ k.receivers[0]? = some { block := 2, left := [0], started := started } ∧ s.parked (.copy 50) = false ∧
      (s.block? 2).isSome = true ∧ (started = true ∨ rtagBusy s k 2 = false) ∧
      (sectorsFrom (recDoff k.record + 0 * k.stride + 512 * 0) ts.length).find? (fun y => ! k.pieces.contains (0, y)) = some 0 ∧
      copyBlocked s0 (kMulti true) (spadSpots false 2 (recDoff k.record + 0 * k.stride + 512 * 0)
        ts.length ++ tileGlobal s0 p0 (dieOfCluster b0.cluster) k.record ts false) = false ∧
      ∃ s1 ms, fetchTile s0 p0 0 k.record ts = .ok (s1, ms) ∧ ms.length = 4 ∧ ms.any Prod.snd = false) := by
  refine ⟨by decide, ?_⟩
  intro started h
  simp only [List.mem_cons, List.not_mem_nil, or_false] at h
  rcases h with rfl | rfl
  all_goals exact ⟨by decide, by decide, by decide, by decide, by decide, by decide, by decide, fetched (by decide)⟩

theorem witness_SafeStates : st.safe 0 = true ∧ st.passes 0 = true ∧ (st.waves.map Wave.uid).Nodup := by decide

/-- A request for 8 SPM granules: beyond the claim, granted, deferred, and turned away by a full FIFO; one for nothing; and a deferred one at
a scan, with a wave that the full FIFO has turned away. -/
def ask (n : Nat) (waits : Bool) : GrantRequest :=
  { wave := 3, kind := 1, q := 8, dst := .s 0, waits := waits, pz := false, entry := n, passed := 0 }
def bRoom : Block := { b0 with alloc := { b0.alloc with spm := 64 } }
def askingFor (r : GrantRequest) (w : Wave) (scan : Bool) (b : Block) (limit : Nat) (fifo : List GrantRequest) : State :=
  (world w b g0 p0).onGck 0 (fun g => { g with queue := [r], fifo := fifo, scan := scan, limit := { Limits.full with spm := limit } })
def asking (b : Block) (limit : Nat) (fifo : List GrantRequest) : State := askingFor (ask 0 false) (waiting .grant) false b limit fifo
def scanning (limit : Nat) : State := askingFor (ask 0 false) (waiting .grant) true bRoom limit [ask 1 true]

theorem witness_GrantChecker :
    let r := ask 0 false
    let grown := fun (s : State) => (s.onGck 0 (fun g => { g with queue := [] })).grow (waiting .grant) 1 8
    let scanned := fun (s : State) => (s.onGck 0 (fun g => { g with scan := g.again, again := false })).grow (waiting .grant) 1 8
    (((asking b0 512 []).cluster 0).gck.queue = r :: [] ∧ ((asking b0 512 []).cluster 0).gck.scan = false ∧ (asking b0 512 []).wave? 3 = some (waiting .grant) ∧
      claimOf (waiting .grant) b0 1 < allocOf (waiting .grant) b0 1 + 8) ∧
    ((asking bRoom 512 []).block? 2 = some bRoom ∧ allocOf (waiting .grant) bRoom 1 + 8 ≤ claimOf (waiting .grant) bRoom 1 ∧
      (grown (asking bRoom 512 [])).passes 0 = true) ∧
    ((grown (asking bRoom 64 [])).passes 0 = false ∧ ((asking bRoom 64 []).cluster 0).gck.fifo.length < 64) ∧
    ((grown (asking bRoom 64 (List.replicate 64 (ask 1 true)))).passes 0 = false ∧
      64 ≤ ((asking bRoom 64 (List.replicate 64 (ask 1 true))).cluster 0).gck.fifo.length) ∧
    (let s := askingFor { r with q := 0 } (waiting .grant) false bRoom 64 []
     (s.cluster 0).gck.queue = { r with q := 0 } :: [] ∧ s.wave? 3 = some (waiting .grant) ∧ s.block? 2 = some bRoom) ∧
    (((scanning 512).cluster 0).gck.scan = true ∧ ((scanning 512).cluster 0).gck.fifo = [ask 1 true] ∧
      (scanned (scanning 512)).passes 0 = true ∧ (scanned (scanning 64)).passes 0 = false) ∧
    (let s := askingFor r (waiting .fifoFull) true bRoom 64 []
     (s.cluster 0).gck.scan = true ∧ s.wave? 3 = some (waiting .fifoFull) ∧ (waiting .fifoFull).wait = some .fifoFull ∧
      s.block? 2 = some bRoom ∧ bRoom.cluster = 0 ∧ ∀ r ∈ (s.cluster 0).gck.fifo, r.wave ≠ 3) := by decide

/-- One record queued; a grid whose one block is still to be admitted; a wave with no live lane, alone in its block and beside another. -/
def record0 : TaskRecord := { grid := 1, id := 32, entry := 0, addr := 0, since := 0 }
def pTask : Part := { p0 with tasks := [record0] }
def gNew : Grid := { benchGrid 1 with next := 0, placed := [], lastCluster := none }
def pServe : Part :=
  { p0 with queues := [(0, { Queue.start with cfg := { QueueConfig.start with en := true }, saved := { QueueConfig.start with en := true } })] }
def admitting : State := { State.reset with grids := [gNew], parts := [pServe], fresh := 100, mem := tables }
def wDone : Wave := { w0 with lanes := [{ lane0 with state := .exited }] }

theorem witness_WavesComeAndGo :
    ((world w0 b0 g0 pTask).grid? 1 = some g0 ∧ (world w0 b0 g0 pTask).part? g0.part = some pTask ∧
      pTask.tasks.filter (fun t => t.grid == 1 && t.entry == 0) = [record0] ∧ (world w0 b0 g0 pTask).canReach (record0.since + 1000) = true ∧
      onlyTasks (world w0 b0 g0 pTask) g0 = false) ∧
    (∃ c v, let s := admitting
      s.grid? 1 = some gNew ∧ gNew.part = 0 ∧ quantumOf s 0 gNew.queue true = some c ∧ s.part? 0 = some pServe ∧ nextGrid s c = some 1 ∧
      mayAdmit s pServe (wsHold s pServe) (s.unitOf gNew false) = true ∧ inRotation s pServe gNew (s.unitOf gNew false) [benchPlace] = true ∧
      placeAll pServe .admission s 0 (s.unitOf gNew false) [benchPlace] = some v ∧ (s.unitOf gNew false).length = 1) ∧
    (st.wave? 3 = some w0 ∧ st.block? w0.block = some b0 ∧ Wave.yielded { w0 with yielded := some { mates := [4], left := 64 } } ≠ none) ∧
    (let s := world wDone b0 g0 p0
     s.wave? 3 = some wDone ∧ s.grid? b0.grid = some g0 ∧ s.part? g0.part = some p0 ∧ wDone.retired = false ∧ wDone.liveLanes = [] ∧
      (∀ q ∈ pRecv :: wDone.pend, q.kind = .receive) ∧ engineBusy s wDone = false ∧ wDone.copyError = false ∧ (∀ x ∈ s.wavesOf b0.uid, x.retired = true ∨ x.uid = 3) ∧
      awaitsDelivery s b0 = false ∧ wDone.backError = false ∧ s.l1Up 0 = true ∧ s.homeUp p0 (32 * mine0.sector) = true ∧
      (({ wDone with copyError := true } : Wave).copyError = true ∧ ({ wDone with backError := true } : Wave).backError = true) ∧
      ∃ x ∈ State.wavesOf { s with waves := [wDone, { w0 with uid := 4 }] } b0.uid, x.retired = false ∧ x.uid ≠ 3) := by
  have h : (quantumOf admitting 0 gNew.queue true).any (fun c => nextGrid admitting c == some 1) = true := by decide
  obtain ⟨c, h1, h2⟩ := anyOf h
  have k : (placeAll pServe .admission admitting 0 (admitting.unitOf gNew false) [benchPlace]).any (fun _ => true) = true := by decide
  obtain ⟨v, h3, -⟩ := anyOf k
  exact ⟨by decide, ⟨c, v, by decide, by decide, h1, by decide, by simpa using h2, by decide, by decide, h3, by decide⟩, by decide, by decide⟩

/-! ### Witnesses: images, partitions, queues -/

/-- Cluster 0 without power, with an image of the small machine or none. -/
def image0 : Image :=
  { epoch := 4, complete := true, current := true, waves := [w0], blocks := [b0], dirty := [], copies := [], gck := .start, cb := [], superseded := [],
    answered := [] }
def dark (i : Option Image) : State :=
  { st with waves := [], blocks := [] }.onCluster 0 (fun c => { c with power := false, imageA := i })

theorem witness_TileImages :
    (st.shadowed 0 = true ∧ (st.cluster 0).power = true ∧ (st.cluster 0).wbUsed + 4 ≤ st.module.activity.wb ∧ st.isStopped 0 = false ∧
      (st.cluster 0).dirtyOpen = [] ∧
      State.canReach { st with module := { st.module with time := 9500, noonDue := 10000 } } ((st.cluster 0).lastClose + 10000) = true) ∧
    (let s := st.onCluster 0 (fun c => { c with dirtyOpen := [.wave 3, .block 2] })
     s.shadowed 0 = true ∧ min (8 / 4) (s.cluster 0).dirtyOpen.length = 2 ∧ (s.cluster 0).wbUsed + 4 * 2 ≤ s.module.activity.wb) ∧
    (let t := world wBusy b0 g0 p0
     t.shadowed 0 = true ∧ (∃ b ∈ t.blocks, b.cluster = 0) ∧ ∃ g ∈ st.touched t 0, g ∈ t.granules 0) ∧
    (((dark (some image0)).cluster 0).power = false ∧ (dark (some image0)).isStopped 0 = false ∧
      ((dark (some image0)).cluster 0).pick = some image0 ∧ image0.current = true ∧ (image0.blocks.map Block.uid).Nodup ∧
      ∀ b ∈ image0.blocks, stillPlaced (dark (some image0)) 0 b = true ∧ ((dark (some image0)).grid? b.grid).any Grid.restart = false) ∧
    (let s := dark (some { image0 with complete := false })
     (s.cluster 0).pick = none ∧ (∀ g ∈ s.grids, (s.part? g.part).isSome = true) ∧ gridsIn s 0 ≠ []) := by decide

/-- The partition pre-empted, its clusters with their images; and lost with the module, created again or not. -/
def pStopped (lost : Bool) : Part := { p0 with preempted := ! lost, lost := lost, recreated := lost }
def saved (lost : Bool) : State :=
  p0.clusters.foldl (fun s cl => s.onCluster cl (fun c => { c with imageA := some { image0 with waves := [], blocks := if cl = 0 then [b0] else [] } }))
    { st with waves := [], blocks := [], parts := [pStopped lost], module := { st.module with boot := 8 } }

theorem witness_ModuleImages :
    (st.part? 0 = some p0 ∧ p0.preempted = false ∧ p0.lost = false ∧ (st.drain p0).drained p0 = true ∧
      ∀ cl ∈ p0.clusters, (st.cluster cl).power = true) ∧
    ((saved true).part? 0 = some (pStopped true) ∧ (pStopped true).lost = true ∧ (pStopped true).recreated = true ∧
      (saved true).module.boot = 8) ∧
    ((saved false).part? 0 = some (pStopped false) ∧ (pStopped false).preempted = true ∧ (pStopped false).lost = false ∧
      (∀ cl ∈ (pStopped false).clusters, ((saved false).cluster cl).power = true ∧ (saved false).oldServed cl = true ∧
        ((saved false).cluster cl).pick.any (fun i => i.current && decide (i.blocks.map Block.uid).Nodup
          && (cl == 0 || i.blocks.isEmpty)) = true) ∧ stillPlaced (saved false) 0 b0 = true) := by decide

/-- A ready module without partitions; the small machine without a resident; a store with a verified image waiting. -/
def bare : State := { State.reset with module := { State.reset.module with boot := 8 } }

theorem witness_PartitionsAndStores :
    (mayCreate bare 1 0 1 2 = true ∧ ∀ q ∈ bare.parts, q.isFormer 1 0 1 2 0 = false) ∧
    (let q := { p0 with lost := true }
     let s := { bare with parts := [q] }
     s.part? 0 = some q ∧ mayCreate s 0 q.start q.domains q.wssz = true ∧ q.isFormer 0 q.start q.domains q.wssz q.arena = true ∧
      q.lost = true ∧ q.recreated = false ∧ ({ q with recreated := true } : Part).recreated = true) ∧
    (let s := { st with waves := [], blocks := [], grids := [{ g0 with placed := [], taskPlaced := [] }] }
     s.part? 0 = some p0 ∧ p0.preempted = false ∧ p0.lost = false ∧ (∀ b ∈ s.blocks, p0.hasCluster b.cluster = false) ∧
      ∀ g ∈ s.grids, g.part = 0 → g.placed = [] ∧ g.taskPlaced = []) ∧
    (let good : Signed := { ecdsaOk := true, lmsOk := true, keys := romKeys, version := 0 }
     good.ecdsaOk = true ∧ good.lmsOk = true ∧ good.keys = romKeys ∧ bare.module.security.least .thadin ≤ good.version ∧ ¬ ({ good with lmsOk := false } : Signed).lmsOk = true) ∧
    (let s := bare.onCluster 0 (fun c => { c with service := { c.service with next := some 7 } })
     (s.cluster 0).service.next = some 7 ∧ (s.cluster 0).power = true ∧ ∀ r ∈ s.requests, r.home = 0 → r.performed = true ∨ r.held = true) := by
  decide

/-- Queue 0 with a ring of 64 packets at 0x20000, between two commits or in one. -/
def ring (seq : Word) (rdidx wridx : Word) : Queue :=
  let c : QueueConfig := { seq := seq, rbase := 0x20000, en := true, log2n := 6, ticket := 1, owner := 0 }
  { Queue.start with cfg := c, saved := c, enabled := true, rdidx := rdidx, wridx := wridx }
def pRing (q : Queue) : Part := { p0 with queues := [(0, q)], wssz := 1 }

theorem witness_QueueControl :
    let s := fun (seq : Word) => { bare with parts := [pRing (ring seq 0 0)] }
    let half : List Word := [1, 0, 0, 0, 0, 0, 0, 0]
    let bad : List Word := [2, 0, 0, 0x80000001, 0, 0, 0, 0]
    let good : List Word := [2, 0x20000, 0, 0x80060001, 0, 0, 0, 0]
    ((s 1).part? 0 = some (pRing (ring 1 0 0)) ∧ (s 1).module.boot = 8 ∧ ((pRing (ring 1 0 0)).queue 0).cfg.seq.toNat % 2 = 1) ∧
    ((s 2).part? 0 = some (pRing (ring 2 0 0)) ∧ ((pRing (ring 2 0 0)).queue 0).cfg.seq.toNat % 2 = 0 ∧
      ((pRing (ring 2 0 0)).queue 0).wridx = 0 ∧ (64 - (0 : Word)).toNat ≤ 2 ^ ((pRing (ring 2 0 0)).queue 0).saved.log2n ∧
      2 ^ ((pRing (ring 2 0 0)).queue 0).saved.log2n < (65 - (0 : Word)).toNat) ∧
    ((configOf bad).log2n = 0 ∧ (1 - (0 : Word)).toNat ≤ 2 ^ 0 ∧ (5 : Word) ≠ 0 ∧ 2 ^ 0 < (5 - (0 : Word)).toNat) ∧
    ((configOf half).seq.toNat % 2 = 1 ∧ (configOf bad).seq.toNat % 2 = 0 ∧ badConfig bad = true ∧ (configOf good).seq.toNat % 2 = 0 ∧
      badConfig good = false ∧ (configOf good).en = true ∧ ((pRing (ring 2 0 0)).queue 0).enabled = true ∧
      (p0.queue 0).enabled = false ∧ (configOf (good.set 3 0)).en = false ∧ badConfig (good.set 3 0) = false) := by decide

/-- One packet at the head of the ring of queue 0, in a partition with an open grid and no block placed. -/
def packed (q : Queue) (cells : List Host.Cell) : State := { bare with parts := [pRing q], grids := [{ g0 with topen := true, placed := [] }], mem := tables ++ cells }

/-- Everything a packet needs to take the queue's quantum. -/
def takesQuantum (s : State) (p : Part) (kind : Nat) : Bool :=
  s.part? p.id == some p && (quantumOf s p.id 0 false).isSome && match ahead s p 0, serve s p 0 with
    | .ok (.packet w, _), .ok (a, _) => kindOf w == kind && a == .packet w
    | _, _ => false

theorem turns {s : State} {p : Part} {kind : Nat} (h : takesQuantum s p kind = true) : ∃ c w s1 v, Turn s p 0 c ∧
    ahead s p 0 = .ok (.packet w, s1) ∧ kindOf w = kind ∧ serve s p 0 = .ok (.packet w, v) := by
  simp only [takesQuantum, Bool.and_eq_true, beq_iff_eq] at h
  obtain ⟨⟨hp, hq⟩, h⟩ := h
  obtain ⟨c, hc⟩ := Option.isSome_iff_exists.1 hq
  split at h
  · rename_i w s1 a v ha hs
    simp only [Bool.and_eq_true, beq_iff_eq] at h
    exact ⟨c, w, s1, v, ⟨hp, hc⟩, ha, h.1, h.2 ▸ hs⟩
  · simp at h

theorem witness_Dispatch_packets : ∀ e ∈ quantumPackets, ∃ s, takesQuantum s (pRing (ring 2 0 1)) e.1 = true := by
  intro e he
  simp only [quantumPackets, List.mem_cons, List.not_mem_nil, or_false] at he
  rcases he with rfl | rfl | rfl | rfl | rfl | rfl | rfl | rfl
  · exact ⟨packed (ring 2 0 1) [], by decide +kernel⟩
  · exact ⟨packed (ring 2 0 1) [(0x20003, 3), (0x20005, 0x90)], by decide +kernel⟩
  · exact ⟨packed (ring 2 0 1) [(0x20003, 4), (0x20005, 0x90), (0x2000D, 0xA0), (0x20014, 0x40)], by decide +kernel⟩
  · exact ⟨{ packed (ring 2 0 1) [(0x20003, 5), (0x20005, 0x90), (0x20011, 0x10)] with grids := [] }, by decide +kernel⟩
  · exact ⟨packed (ring 2 0 1) [(0x20003, 7)], by decide +kernel⟩
  · exact ⟨packed (ring 2 0 1) [(0x20003, 8), (0x20008, 5)], by decide +kernel⟩
  · exact ⟨packed (ring 2 0 1) [(0x20003, 9)], by decide +kernel⟩
  · exact ⟨packed (ring 2 0 1) [(0x20003, 0xA), (0x20005, 0x90)], by decide +kernel⟩

/-- A LAUNCH of one block whose record stands at 0xB000, alone and as a gang of one; a GRAPH of one node whose table stands at 0xC000. -/
def launch (gang : Bool) : List Host.Cell := [(0x20003, 1), (0x20005, 0xB0), (0x2000C, 1), (0x2000E, 1), (0x20010, 1)] ++ (if gang then [(0x20016, 0x20)] else [])
def graph : List Host.Cell := [(0x20003, 2), (0x20005, 0xC0)]
def packedIn (q : Queue) (cells : List Host.Cell) : State := packed q ([(0xB002, 1), (0xC000, 1)] ++ [(0xC083, 1), (0xC085, 0xB0), (0xC08C, 1), (0xC08E, 1), (0xC090, 1)] ++ cells)
def run0 : GraphRun :=
  { table := 0xC000, slot := 0, index := 0, running := [], ready := [0], owed := [], sink := 0, sinkDone := false, fault := false,
    marking := false }
def pGraph : Part := { pRing (ring 2 1 1) with graphs := [run0] }

/-- A running REPEAT at the end of its body, and a COND in WAIT whose word was last read at 0. -/
def looped : Queue := { ring 2 1 1 with loop := some { index := 0, left := 0, total := 0 } }
def polledAt (t : Nat) : Queue := { ring 2 0 1 with polled := some (t, false) }
def cond (flags : Byte) : List Host.Cell :=
  [(0x20003, 6), (0x20005, 0xD0), (0x20010, 0xFF)] ++ if flags = 0 then [] else [(0x20014, flags)]


/-- The same for a LAUNCH outside a gang, a node of a graph, what stands next in a REPEAT, and a COND in WAIT. -/
def launches (s : State) (p : Part) : Bool :=
  match ahead s p 0, serve s p 0 with
  | .ok (.packet w, _), .ok (a, _) => kindOf w == 1 && ! LaunchPacket.gang w && a == .packet w
  | _, _ => false

theorem launched {s : State} {p : Part} (h : launches s p = true) : ∃ w s1 s2, ahead s p 0 = .ok (.packet w, s1) ∧ kindOf w = 1 ∧
    LaunchPacket.gang w = false ∧ serve s p 0 = .ok (.packet w, s2) := by
  unfold launches at h
  split at h
  · rename_i w s1 a s2 h1 h2
    simp only [Bool.and_eq_true, beq_iff_eq, Bool.not_eq_true'] at h
    exact ⟨w, s1, s2, h1, h.1.1, h.1.2, h.2 ▸ h2⟩
  · simp at h

def goesOn {ε α : Type} (e : Except ε α) : Bool := match e with | .ok _ => true | .error _ => false

theorem wentOn {ε α : Type} {e : Except ε α} (h : goesOn e = true) : ∃ a, e = .ok a := by
  cases e with
  | error => simp [goesOn] at h
  | ok a => exact ⟨a, rfl⟩

theorem again {s : State} {p : Part} (h : (match ahead s p 0, serve s p 0 with
    | .ok (a, _), .ok (b, _) => a.matches 6 && b == a
    | _, _ => false) = true) : ∃ a s1 v, ahead s p 0 = .ok (a, s1) ∧ a.matches 6 = true ∧ serve s p 0 = .ok (a, v) := by
  split at h
  · rename_i a s1 b v ha hb
    simp only [Bool.and_eq_true, beq_iff_eq] at h
    exact ⟨a, s1, v, ha, h.1, h.2 ▸ hb⟩
  · simp at h

/-- The state behind a reading that found the test false. -/
def readFalse (s1 : State) (p : Part) : State := s1.onQueue p.id 0 (fun q => { q with polled := some (s1.module.time, false) })

theorem waited {s t : State} {p : Part} (h : (waitingCond s p 0).any (fun w =>
    match condTest t p w with
    | .ok r => r.1 == false && ((readFalse r.2 p).part? p.id).all (fun q => waitingCond (readFalse r.2 p) q 0 == some w)
    | .error _ => false) = true) :
    ∃ w s1, waitingCond s p 0 = some w ∧ condTest t p w = .ok (false, s1) ∧
      ∀ q, (readFalse s1 p).part? p.id = some q → waitingCond (readFalse s1 p) q 0 = some w := by
  obtain ⟨w, h1, h2⟩ := anyOf h
  split at h2
  · rename_i r hr
    simp only [Bool.and_eq_true, beq_iff_eq] at h2
    refine ⟨w, r.2, h1, by rw [hr, ← h2.1], fun q hq => ?_⟩
    have h3 := h2.2
    rw [hq] at h3
    simpa using h3
  · simp at h2

theorem witness_Dispatch_launch : (∃ w s1 s2, ahead (packedIn (ring 2 0 1) (launch false)) (pRing (ring 2 0 1)) 0 = .ok (.packet w, s1) ∧
      kindOf w = 1 ∧ LaunchPacket.gang w = false ∧
      serve (packedIn (ring 2 0 1) (launch false)) (pRing (ring 2 0 1)) 0 = .ok (.packet w, s2)) ∧
    (packedIn (ring 2 0 1) (launch false)).part? 0 = some (pRing (ring 2 0 1)) ∧
    firstLaunch (packedIn (ring 2 0 1) (launch false)) (pRing (ring 2 0 1)) = some 0 ∧
    takesQuantum (packedIn (ring 2 0 1) (launch true)) (pRing (ring 2 0 1)) 1 = true :=
  ⟨launched (by decide +kernel), by decide, by decide +kernel, by decide +kernel⟩

/-- The graph runs, with its node ready. -/
def graphing : State := { packedIn (ring 2 1 1) [] with parts := [pGraph] }

/-- A run with a successor still to count. -/
def pOwing : Part := { pGraph with graphs := [{ run0 with owed := [0] }] }

/-- One record of a TASKS packet waits for room. -/
def recs0 : Flight := { index := 0, work := .records 1 [List.replicate 16 0], sig := false, irq := false, tl := 0 }
def pFed : Part := pRing { ring 2 1 1 with flights := [recs0] }

theorem witness_Dispatch_tasks : ({ packed (ring 2 1 1) [] with parts := [pFed] } : State).part? 0 = some pFed ∧
    recordsFlight pFed 0 = some recs0 ∧ feedable { packed (ring 2 1 1) [] with parts := [pFed] } pFed 0 recs0 = true ∧
    recordsFlight (pRing (ring 2 0 1)) 0 = none := by decide

theorem witness_Dispatch_graph : takesQuantum (packedIn (ring 2 0 1) graph) (pRing (ring 2 0 1)) 2 = true ∧
    owingRun (packedIn (ring 2 0 1) graph) (pRing (ring 2 0 1)) 0 = none ∧ readyRun (packedIn (ring 2 0 1) graph) (pRing (ring 2 0 1)) 0 = none ∧
    graphing.part? 0 = some pGraph ∧ (quantumOf graphing 0 0 false).isSome = true ∧ owingRun graphing pGraph 0 = none ∧
    readyRun graphing pGraph 0 = some run0 ∧ Queue.launching graphing pGraph 0 = true ∧ (∃ v, launchNode graphing pGraph run0 = .ok v) ∧
    owingRun { graphing with parts := [pOwing] } pOwing 0 = some { run0 with owed := [0] } :=
  ⟨by decide +kernel, by decide, by decide, by decide, by decide +kernel, by decide, by decide +kernel, by decide, wentOn (by decide +kernel),
    by decide⟩

theorem witness_Dispatch_cond : takesQuantum (packedIn (ring 2 0 1) (cond 0)) (pRing (ring 2 0 1)) 6 = true ∧
    waitingCond (packedIn (ring 2 0 1) (cond 0)) (pRing (ring 2 0 1)) 0 = none ∧
    waitingCond (packedIn looped (cond 0x11)) (pRing looped) 0 = none ∧ ((pRing looped).queue 0).loop.any (fun l => l.left == 0) = true ∧
    (packedIn looped (cond 0x11)).part? 0 = some (pRing looped) ∧ (quantumOf (packedIn looped (cond 0x11)) 0 0 false).isSome = true ∧
    (∃ a s1 v, ahead (packedIn looped (cond 0x11)) (pRing looped) 0 = .ok (a, s1) ∧ a.matches 6 = true ∧
      serve (packedIn looped (cond 0x11)) (pRing looped) 0 = .ok (a, v)) ∧
    ((pRing (polledAt 0)).queue 0).polled = some (0, false) ∧ (packedIn (polledAt 0) (cond 0x21)).canReach 1000 = true ∧
    ∃ w s1, waitingCond (packedIn (polledAt 0) (cond 0x21)) (pRing (polledAt 0)) 0 = some w ∧
      condTest ((packedIn (polledAt 0) (cond 0x21)).reach 1000) (pRing (polledAt 0)) w = .ok (false, s1) ∧
      ∀ q, (readFalse s1 (pRing (polledAt 0))).part? 0 = some q → waitingCond (readFalse s1 (pRing (polledAt 0))) q 0 = some w :=
  ⟨by decide +kernel, by decide +kernel, by decide +kernel, by decide, by decide, by decide +kernel, again (by decide +kernel), by decide,
    by decide, waited (by decide +kernel)⟩

/-- A TLSIG that raises a timeline of its own beside the one that it sets. -/
def signals (s : State) (p : Part) : Bool :=
  match serve s p 0 with
  | .ok (.packet w, _) => kindOf w == 8 && (word w 0).testBit 22 && bits (word w 0) 8 8 == 5 && tlIndex w == 6
  | _ => false

theorem signalled {s : State} {p : Part} (h : signals s p = true) : ∃ w v, serve s p 0 = .ok (.packet w, v) ∧ kindOf w = 8 ∧
    (word w 0).testBit 22 = true ∧ bits (word w 0) 8 8 = 5 ∧ tlIndex w = 6 := by
  unfold signals at h
  split at h
  · rename_i w v hs
    simp only [Bool.and_eq_true, beq_iff_eq] at h
    exact ⟨w, v, hs, h.1.1.1, h.1.1.2, h.1.2, h.2⟩
  · simp at h

/-- Packets of the other kinds are served in the witnesses of `Obligations.Dispatch`. -/
theorem witness_PacketEffects : (packed (ring 2 0 1) [(0x20001, 5), (0x20002, 0x40), (0x20003, 8), (0x20004, 6), (0x20005, 1), (0x20008, 9)]).part? 0 = some (pRing (ring 2 0 1)) ∧
    ∃ w v, serve (packed (ring 2 0 1) [(0x20001, 5), (0x20002, 0x40), (0x20003, 8), (0x20004, 6), (0x20005, 1), (0x20008, 9)]) (pRing (ring 2 0 1)) 0 = .ok (.packet w, v) ∧ kindOf w = 8 ∧
      (word w 0).testBit 22 = true ∧ bits (word w 0) 8 8 = 5 ∧ tlIndex w = 6 := ⟨by decide, signalled (by decide +kernel)⟩

/-! ### Witnesses: the module -/

/-- Nothing is due for ten microseconds. -/
def calm : State := { st with module := { st.module with noonDue := 10000 } }

theorem witness_LimitsAndTime :
    let s := calm.onCluster 0 (fun c => { c with volt := { c.volt with pending := true } })
    ((s.cluster 0).volt.pending = true ∧ s.canReach (s.module.time + (100 * (600 - 600) - (s.cluster 0).volt.part)) = true ∧ (s.cluster 0).volt.vnow = 600 ∧
      ∀ w ∈ bare.clusterWaves 0, w.slice ≠ 15) ∧
    (bare.module.timeSet = false ∧ (-40000 : Int) < -32768) ∧
    (calm.part? 0 = some p0 ∧ calm.begun p0 = true ∧ calm.timeOf p0 + 8000 < 2 ^ 64 ∧
      calm.canReachTime p0 (nextInstant (calm.timeOf p0) 0) = true ∧ calm.canReachTime p0 (nextInstant (calm.timeOf p0) 2000) = true) ∧
    calm.module.periodDue ≤ calm.module.noonDue ∧ (∀ p ∈ calm.parts, p.kills = []) ∧ Sparse.get 0 st.module.scrubbed 0 + [0x100, 0x200].length ≤ st.module.activity.sc := by
  decide

theorem witness_NoonThermalAndDebug :
    let s := { bare with parts := [p0] }
    s.module.noonDue ≤ s.module.periodDue ∧
    ((Sparse.get .start s.module.thermal 0).step < 2 ∧ 2 ≤ stepAfter 0 105 ∧ stepAfter 0 105 < 4 ∧ stepAfter 0 120 = 4 ∧ dieOfCluster 0 = 0) ∧
    ((st.part? 0).map Part.debugUsed = some 0 ∧ (0 : Nat) < st.module.activity.db ∧ pBug.debugger = true ∧ st.wave? 3 = some w0 ∧
      p0.owns st w0 = true) ∧
    (s.part? 0 = some p0 ∧ (∀ b ∈ s.blocks, p0.hasCluster b.cluster = false) ∧ s.module.boot = 8 ∧
      ((pRing (ring 1 0 0)).queue 0).cfg.seq.toNat % 2 = 1) := by decide

/-- The records of an enrolled module, which retires part 4; and those of a leased one. -/
def signedBy (n : Nat) : Signed := { ecdsaOk := true, lmsOk := true, keys := { ecdsa := n, lms := n }, version := 2 }
def wellFormed : RecordForm := { magic := 0x4A585243, version := 1, len := 61440 }
def record (c : Content) : Record := { counter := 3, form := wellFormed, content := c, sig1 := true, sig2 := .good }
def enrolled : Security := { bare.module.security with records := [record (.identity 1 77), record (.sparing [4]), record (.authority (signedBy 9).keys)] }
def leased : Security := { enrolled with records := enrolled.records ++ [record (.lease 5 (signedBy 6).keys)] }

theorem witness_ErrorsAndSpares :
    let port := fun (q : Port) => { bare with module := { bare.module with ports := [(0, q)] } }
    ((bare.port 0).down = false ∧ (bare.port 0).failedLanes = 0 ∧ (bare.port 0).retraining = false ∧ (bare.port 0).retries + 1 < 16) ∧
    (let s := port { failedLanes := 1, retraining := true, down := false, retries := 15 }
     (s.port 0).down = false ∧ (s.port 0).failedLanes ≠ 0 ∧ (s.port 0).retraining = true ∧ 16 ≤ (s.port 0).retries + 1) ∧
    ((0, 0) ∉ bare.module.spares ∧ (∀ b ∈ bare.blocks, b.cluster / Config.clustersPerDomain ≠ 0) ∧
      (∀ g ∈ bare.grids, ∀ cl ∈ g.clustersPlaced, cl / Config.clustersPerDomain ≠ 0) ∧
      (∀ e ∈ bare.module.spares, ¬(e.1 = 1 ∧ e.2 / 8 = 0)) ∧ bare.parts = []) ∧
    (let x := { enrolled with locked := true }
     x.locked = true ∧ x.identity ≠ none ∧ x.lmsIndex < 2 ^ 20 - 4096 ∧ x.retired = [4] ∧ (∀ r ∈ x.retired, r ∈ [4, 5]) ∧ ∃ r ∈ x.retired, r ∉ [5]) := by
  decide

/-- A module with these records, at boot step `boot`; and what Matins may find at power-on. -/
def secured (x : Security) (boot : Nat) : State := { bare with module := { bare.module with security := x, boot := boot } }
def found (rom : Bool) (runtime base : Option Signed) : BootInput :=
  { upTo := 8, romOk := rom, identity := none, runtime := runtime, base := base.map (fun g => { counter := 1, signed := g, form := wellFormed }),
    patch := none, nodeId := 1, routes := [], apertures := [] }

theorem witness_LeasesAndReset :
    (let s := secured enrolled 5
     s.module.takesRecords = true ∧ s.module.recovery = false ∧ (signedBy 0).keys = romKeys ∧ enrolled.identity = some (1, 77) ∧
      (∀ a, enrolled.authority = some a → a.1 < 4) ∧ enrolled.authority = some (3, (signedBy 9).keys) ∧ enrolled.leaseRecord = none ∧
      enrolled.baseOnly = false ∧ enrolled.lmsIndex < 2 ^ 20) ∧
    (let s := secured leased 8
     leased.lease = some (5, (signedBy 6).keys) ∧ leased.leaseRecord ≠ none ∧ 3 ≤ s.module.boot ∧ leased.accepts (signedBy 9) .authority = true ∧
      s.module.boot ≠ 0 ∧ (3 : Word).getLsbD 0 = true ∧ leased.scrub.pending = false) ∧
    (let t := { bare with module := { bare.module with mstate := .scrubbing, security := leased } }
     t.module.mstate = .scrubbing ∧ t.module.scrubEnd ≤ t.module.time) ∧
    (let s := secured enrolled 0
     s.module.boot = 0 ∧ s.module.mstate ≠ .scrubbing ∧ enrolled.lastStatus = 0 ∧ enrolled.lease = none ∧ enrolled.scrub.pending = false ∧
      enrolled.accepts (signedBy 0) .thadin = true ∧ enrolled.accepts (signedBy 9) .authority = true ∧
      enrolled.accepts (signedBy 1) .authority = false ∧ enrolled.accepts (signedBy 1) .thadin = false ∧
      enrolled.least .thadin ≤ 2 ∧ enrolled.least .authority ≤ 2 ∧ (signedBy 9).version = 2 ∧ (found true (some (signedBy 9)) none).upTo = 8 ∧
      (found true none (some (signedBy 0))).runtime = none ∧
      (enrolled.readRecords (found true none (some (signedBy 0)))).baseImage = some (signedBy 0) ∧
      (enrolled.readRecords (found true none none)).baseImage = none ∧
      (found false none none).romOk = false ∧ State.reset.module.security.identity = none) ∧
    (let x := { enrolled with records := enrolled.records ++ [record (.scrub { pending := true, trigger := 0, nonce := 1 })] }
     (secured x 0).module.boot = 0 ∧ x.scrub.pending = true ∧ x.identity ≠ none) ∧
    (leased.accepts (signedBy 6) .customer = true ∧ leased.least .customer ≤ 0) := by decide

/-! ### Witnesses: every instruction -/

/-- The guard is P0, which is false. -/
def x1 : Fields := guardOf false 0
def idle_ (w : Wave) : Issue := { seatOf w b0 g0 p0 with active := [] }

theorem witness_NoLaneNoEffect :
    let c := idle_ wHandler
    let x : Fields := { x1 with d := .v 0, a := .v 4 }
    (Instr.not x).fields = some x ∧ Instr.not x ≠ .reord x ∧ Meets (world wHandler b0 g0 p0) x c ∧ c.active = [] ∧ GuardSound c x ∧
    c.wave.handler = true ∧ Whole c ∧ (Instr.bars { x1 with a := .bar 0 0 }).fields = some { x1 with a := .bar 0 0 } ∧
    isCollective (.bars { x1 with a := .bar 0 0 }) = true ∧ isPrivileged (.halt x1) = true :=
  ⟨rfl, by decide, ⟨by decide, by decide⟩, rfl, guardSound (by decide), rfl, ⟨by decide, by decide⟩, rfl, rfl, rfl⟩

/-- V4 of the lane is empty; the last register of the grant lies below V255's pair; V0 is empty. -/
def wEmpty : Wave := { w0 with v := [(128, { val := 0, full := false, pz := false })], regAlloc := 4 }

theorem witness_OperandsAtIssue :
    let far : Fields := { xv with d := .v 40 }
    let near : Fields := { xv with d := .v 0, ea := true }
    let wait : Fields := { xv with d := .v 0, eb := true }
    let c := seatOf wEmpty b0 g0 p0
    let s := world wEmpty b0 g0 p0
    laneShape (.iadd near) = some (near, shape2) ∧ s.issue? near = some c ∧ c.active ≠ [] ∧ beyondGrant c.wave far.d 1 = true ∧
    c.wave.handler = false ∧ c.part.xlate.hsize ≠ 0 ∧ beyondGrant c.wave near.d 1 = false ∧
    (shape2.srcs near).any (fun r => beyondGrant c.wave r.op r.regs) = false ∧ shape2.srcs near = [] ++ srcA near 1 :: [srcB near 1] ∧
    (readOp s c near.a 1 0).full = false ∧ (srcA near 1).trap = true ∧ (srcA wait 1).trap = false ∧
    (shape2.srcs { wait with a := .v 5 }).all (fun r => c.active.all (fun l => (readOp s c r.op r.regs l).full)) = true :=
  ⟨rfl, by decide, by decide, by decide, rfl, by decide, by decide, by decide, rfl, by decide, rfl, rfl, by decide⟩

/-- A task block's wave at its last instruction; a wave split in two; a partition without a handler. -/
def wEnd : Wave := { w0 with lanes := [{ lane0 with pc := 4080 }] }
def wSplit : Wave := { w0 with lanes := [lane0, { lane0 with pc := 24 }] }
def pBare : Part := { p0 with xlate := { p0.xlate with hsize := 0 } }

theorem witness_PreciseFaults :
    (isPrivileged (.halt x0) = true ∧ st.issue? x0 = some seat ∧ seat.wave.handler = false ∧ seat.part.xlate.hsize ≠ 0 ∧ seat.active ≠ [] ∧
      Readable st seat [srcA x0 1] .zero 1 ∧ Sound st seat [srcA x0 1]) ∧
    ((world wHandler b0 g0 p0).issue? x0 = some (seatOf wHandler b0 g0 p0) ∧ (seatOf wHandler b0 g0 p0).wave.handler = true) ∧
    ((world w0 b0 g0 pBare).issue? x0 = some (seatOf w0 b0 g0 pBare) ∧ (seatOf w0 b0 g0 pBare).part.xlate.hsize = 0) ∧
    ((world wSplit b0 g0 p0).issue? { x0 with a := .bar 0 0 } = some (seatOf wSplit b0 g0 p0) ∧ barKey (.bar 0 0) = 0 ∧
      (seatOf wSplit b0 g0 p0).wave.presentLanes = [0, 1] ∧ (wSplit.lane 1).pc ≠ 0) ∧
    ((world wEnd b0 g0 p0).issue? x0 = some { seatOf wEnd b0 g0 p0 with pc := 4080 } ∧
      ({ seatOf wEnd b0 g0 p0 with pc := 4080 } : Issue).codeSize ≤ 4080 + 12) ∧
    (let s := { st with agenda := [.issue 3] }
     let s1 := ({ s with agenda := [] } : State).endYield 3
     let s2 := { s1 with issuing := 3 }
     let s3 := s2.touchCode seat
     let word := wordOfBytes noBytes
     s2.headIssue? = some seat ∧ s2.mayIssue seat = true ∧ fetchBytes s2 seat = .ok noBytes ∧
      s3.issue? (wordGuard word) = some { seat with active := [] } ∧ privilegedWord word = false ∧ (decodeWord word).toOption = none ∧
      privilegedWord 0xF207F83E0F8000000F800000#96 = true ∧ seat.wave.backError = false) := by
  refine ⟨⟨rfl, by decide, rfl, by decide, by decide, ready (by decide), sound (by decide)⟩, by decide, by decide, by decide, by decide,
    by decide, by decide, isOk (by decide), by decide, by decide, by decide, by decide, by decide⟩

/-- The step of wave `u` meets `i`, at user level. -/
def comesTo (s1 : State) (u : Nat) (i : Instr) (c : Issue) : Bool :=
  let s2 := { s1 with issuing := u }
  s2.mayIssue c && (match fetchBytes s2 c with
    | .ok bs => decide ((decodeWord (wordOfBytes bs)).toOption = some i) && ! privilegedWord (wordOfBytes bs)
    | .error _ => false)

/-- The bench that the host's `withFetchWord` builds, and what a step leaves before the issue. -/
def bench : State := State.reset.withFetchWord 96 (encode (.nop x0)).toNat
def bench1 : State := ({ bench with agenda := [] } : State).endYield 2
def heldAt0 : State := world { w0 with lanes := [{ lane0 with held := true }, { lane0 with state := .exited }] } b0 g0 p0

/-- NOP stands where the next step fetches; two lanes of which one is held at a BARS gather as the other exits. -/
theorem witness_StepRunsTheInstruction : bench.agenda = [.issue 2] ∧
    ({ bench1 with issuing := 2 } : State).headIssue?.any (comesTo bench1 2 (.nop x0)) = true ∧ st.gathered 3 = false ∧
    heldAt0.gathered 3 = true ∧ Instr.isEvent .functionLevelReset = true :=
  ⟨by decide, by decide +kernel, by decide, by decide, rfl⟩

theorem witness_RoundTrip : (Instr.iadd { x0 with d := .s 7, a := .s 4, b := .s 6, eb := true }).wf = true ∧
    Instr.isEvent (.iadd { x0 with d := .s 7, a := .s 4, b := .s 6, eb := true }) = false ∧
    (decodeWord 0x030741D0441800000F810000#96).toOption = some (.iadd { x0 with d := .s 7, a := .s 4, b := .s 6, eb := true }) := by decide

/-- FENCE uses neither B nor C nor D and has one form; IADD above has a policy bit. -/
theorem witness_UnusedFieldsAndPolicyBits : (decodeWord 0xA307F8202F8002800F800000#96).toOption = some (.fence { x0 with a := .imm 2, order := .rel, scope := .gd }) ∧
    (formOf .fence).d = [.zero] ∧ (formOf .fence).b = [.zero] ∧ (formOf .fence).c = [.zero] ∧ (formOf .bra).b = [.zero] ∧
    (∀ n, n < 16 → n ≠ 0 → instrOf (majorOf 0xA307F8202F8002800F800000#96) n = none) ∧ (0x030741D0441800000F810000#96).getLsbD 16 = true := by decide

theorem witness_StepKeepsMemory : State.reset.MemOk ∧ st.MemOk := by decide

end Sys2Proof.Tests
end

section
/-! SUPPORT. Control transfers (R29, R35, R36, R170, R207 to R211): what stepping past does where no lane of the group leaves the code, what
the spilling and refilling of return stacks touch, and from these the statement about branches, calls, returns and exits. -/

namespace Sys2Proof.Machine

variable {s t u : State} {x : Fields} {c : Issue}

/-! ### Stepping past where no lane leaves the code -/

/-- `t` is `s` with the issuing wave as `own`, and nothing else differs. -/
structure OwnIs (s t : State) (c : Issue) (own : Wave) : Prop where
  rest : { t with waves := s.waves } = s
  others : ∀ u, u ≠ c.wave.uid → t.wave? u = s.wave? u
  own : t.wave? c.wave.uid = some own

theorem ownIs_self (h : s.wave? c.wave.uid = some c.wave) : OwnIs s s c c.wave := ⟨rfl, fun _ _ => rfl, h⟩

theorem ownIs_own {f : Wave → Wave} {own : Wave} (hf : ∀ w, (f w).uid = w.uid) (h : s.wave? c.wave.uid = some c.wave)
    (ho : f c.wave = own) : OwnIs s (s.own c f) c own :=
  ⟨own_rest f, fun u hu => by rw [wave?_own u f hf, if_neg hu], by rw [wave?_own _ f hf, if_pos rfl, h, ← ho]; rfl⟩

/-- A withdrawal changes a cluster's grant checker and so commutes with a change of the issuing wave (R67). -/
theorem ownIs_withdraw {own : Wave} (h : OwnIs s t c own) (cl : Nat) (p : Nat → Bool) : OwnIs (s.withdraw cl p) (t.withdraw cl p) c own :=
  ⟨congrArg (fun v => v.withdraw cl p) h.rest, h.others, h.own⟩

/-- A step past the instruction before it is known whether a lane has left the code (R29, R212). -/
def State.passed (s : State) (c : Issue) (x : Fields) (js : List (Nat × Nat)) : State :=
  { s.own c (fun w => w.pass c x js) with
    waves := (s.own c (fun w => w.pass c x js)).waves.map (fun w => if w.uid = c.wave.uid then w else Wave.seeIssue c.wave.uid w) }

theorem finish_of_fallen_nil {js : List (Nat × Nat)} (h : fallen (s.passed c x js) c js = []) : s.finish c x js = s.passed c x js := by
  show (if (fallen (s.passed c x js) c js).isEmpty then s.passed c x js else _) = _
  rw [h]; rfl

theorem passed_rest (js : List (Nat × Nat)) : { s.passed c x js with waves := s.waves } = s := own_rest (s := s) (c := c) _

theorem passed_wave? (js : List (Nat × Nat)) (u : Nat) :
    (s.passed c x js).wave? u =
      if u = c.wave.uid then (s.wave? u).map (fun w => w.pass c x js) else (s.wave? u).map (Wave.seeIssue c.wave.uid) := by
  have hmap := wave?_mapWaves (s.own c (fun w => w.pass c x js)).waves (fun w => if w.uid = c.wave.uid then w else Wave.seeIssue c.wave.uid w)
    (fun w => by split <;> simp [seeIssue_uid]) u
  have hown := wave?_own (s := s) (c := c) u (fun w => w.pass c x js) (fun _ => rfl)
  refine hmap.trans ((congrArg _ hown).trans ?_)
  cases hw : s.wave? u with
  | none => by_cases hu : u = c.wave.uid <;> simp [hu]
  | some w => by_cases hu : u = c.wave.uid <;> simp [hu, pass_uid, wave?_uid hw]

theorem isLive_pass (w : Wave) (js : List (Nat × Nat)) (l : Nat) : (w.pass c x js).isLive l = w.isLive l := by
  unfold Wave.isLive
  rw [lane_pass]
  split <;> rfl

/-- No lane leaves the code: the code goes on behind the instruction, or every lane of the group transfers or has exited (R170). -/
theorem fallen_eq_nil {js : List (Nat × Nat)} {w : Wave} (hw : s.wave? c.wave.uid = some w)
    (h : c.pc + 12 < c.codeSize ∨ ∀ l ∈ c.group, w.isLive l = false ∨ ∃ a, (l, a) ∈ js) : fallen s c js = [] := by
  rcases h with h | h
  · exact fallen_nil h js
  · unfold fallen
    split
    · rfl
    · simp only [hw, List.filter_eq_nil_iff]
      intro l hl
      rcases h l hl with h | ⟨a, h⟩
      · simp [h]
      · have : js.any (fun j => j.1 == l) = true := List.any_eq_true.2 ⟨_, h, by simp⟩
        simp [this]

/-- Stepping past after a change of the issuing wave alone, where no lane leaves the code. -/
theorem past_finish_of_ownIs {own : Wave} {js : List (Nat × Nat)} (h : OwnIs s t c own) (hl : ∀ l ∈ c.group, l < own.lanes.length)
    (hs : c.pc + 12 < c.codeSize ∨ ∀ l ∈ c.group, own.isLive l = false ∨ ∃ a, (l, a) ∈ js) :
    Past s (t.finish c x js) c x (nextPc c js) own := by
  have hw : (t.passed c x js).wave? c.wave.uid = some (own.pass c x js) := by rw [passed_wave?, if_pos rfl, h.own]; rfl
  rw [finish_of_fallen_nil (fallen_eq_nil hw (by simpa only [isLive_pass] using hs))]
  refine ⟨⟨?_, fun u hu => by rw [passed_wave?, if_neg hu, h.others u hu]⟩, _, hw, ⟨by simp [Wave.pass], fun l => ?_, rfl, rfl⟩, rfl⟩
  · exact (congrArg (fun v : State => { v with waves := s.waves }) (passed_rest js)).trans h.rest
  · rw [lane_pass]
    by_cases hg : l ∈ c.group
    · rw [if_pos ⟨hg, hl l hg⟩, if_pos hg]
    · rw [if_neg (fun k => hg k.1), if_neg hg]

/-! ### Targets -/

theorem signed_eq_toInt (v : Nat) : signed 32 v = (BitVec.ofNat 32 v).toInt := by
  rw [BitVec.toInt_eq_toNat_cond, BitVec.toNat_ofNat]
  unfold signed
  split <;> split <;> omega

theorem targets_eq (disp : Operand) (reg : Option Operand) :
    targets s c disp reg = c.active.map (fun l => (l, transferTo s c disp reg l)) := by
  unfold targets target transferTo bits32
  cases reg <;> simp only [signed_eq_toInt]

theorem checkTargets_good {to_ : Nat → Int} (h : goodTransfer c to_) : checkTargets c (c.active.map (fun l => (l, to_ l))) = .ok () := by
  have hnone : (c.active.map (fun l => (l, to_ l))).find? (fun e => badTarget c e.2) = none := by
    simp only [List.find?_eq_none, List.mem_map, forall_exists_index, and_imp, forall_apply_eq_imp_iff₂]
    intro l hl
    obtain ⟨hlow, hmod, hhigh⟩ := h.1 l hl
    simp [badTarget, hmod, hlow, hhigh]
  unfold checkTargets
  rw [hnone]

theorem find?_beq_self {l : Nat} {ls : List Nat} (h : l ∈ ls) : ls.find? (fun k => k == l) = some l := by
  obtain ⟨k, hk⟩ := Option.isSome_iff_exists.1 (List.find?_isSome (p := fun k => k == l) |>.2 ⟨l, h, beq_self_eq_true l⟩)
  have hkl := List.find?_some hk
  rw [hk, beq_iff_eq.1 hkl]

theorem nextPc_jumpsTo (to_ : Nat → Int) : nextPc c (jumpsTo (c.active.map (fun l => (l, to_ l)))) = landing c to_ := by
  funext l
  unfold nextPc landing jumpsTo
  rw [List.map_map, List.find?_map]
  by_cases hl : l ∈ c.active
  · simp [Function.comp_def, find?_beq_self hl, hl]
  · have : c.active.find? (fun k => k == l) = none := by
      rw [List.find?_eq_none]; intro k hk hkl; exact hl ((beq_iff_eq.1 hkl) ▸ hk)
    simp [Function.comp_def, this, hl]

/-- Stepping past a transfer to good targets, after a change of the issuing wave alone. -/
theorem past_transfer {own : Wave} {to_ : Nat → Int} (hc : u.issue? x = some c) (h : OwnIs s t c own)
    (hn : own.lanes.length = c.wave.lanes.length) (hg : goodTransfer c to_) :
    Past s (t.finish c x (jumpsTo (c.active.map (fun l => (l, to_ l))))) c x (landing c to_) own := by
  rw [← nextPc_jumpsTo]
  refine past_finish_of_ownIs h (fun l hl => hn ▸ lane_lt_of_live (group_live hc hl).2) (hg.2.imp id (fun ha l hl => .inr ⟨(to_ l).toNat, ?_⟩))
  unfold jumpsTo
  rw [List.map_map]
  exact List.mem_map.2 ⟨l, ha l hl, rfl⟩

theorem checkTransfer_ok {srcs : List Src} {to_ : Nat → Int} (hr : Readable s c srcs .zero 1) (hp : Sound s c srcs) (hg : GuardSound c x)
    (ht : goodTransfer c to_) : checkTransfer s c x srcs (c.active.map (fun l => (l, to_ l))) = .ok () := by
  unfold checkTransfer
  rw [checkOperands_ready hr, guardUse_sound hg, checkPoison_sound hp, checkTargets_good ht]
  rfl

/-- An instruction without sources asks nothing of its operands. -/
theorem readable_nil : Readable s c [] .zero 1 := ⟨by simp, by simp, fun _ => rfl, fun _ => rfl⟩
theorem sound_nil : Sound s c [] := by simp [Sound]

/-! ### Branches -/

theorem branch_past {srcs : List Src} {disp : Operand} {reg : Option Operand} (hc : s.issue? x = some c) (hr : Readable s c srcs .zero 1)
    (hp : Sound s c srcs) (hg : GuardSound c x) (ht : goodTransfer c (transferTo s c disp reg))
    {k : Issue → Except Stop (State × List (Nat × Nat))}
    (hk : k c = (do checkTransfer s c x srcs (targets s c disp reg); .ok (s, jumpsTo (targets s c disp reg)))) :
    ∃ t, issueJump s x k = .next t ∧ Past s t c x (landing c (transferTo s c disp reg)) c.wave := by
  refine ⟨_, issueJump_ok hc (hk.trans ?_), past_transfer hc (ownIs_self (issue?_wave hc)) rfl ht⟩
  rw [targets_eq, checkTransfer_ok hr hp hg ht]
  rfl

theorem branches_hold : branches :=
  ⟨fun _ _ _ hc hg ht => branch_past hc readable_nil sound_nil hg ht rfl, fun _ _ _ hc hr hp hg ht => branch_past hc hr hp hg ht rfl⟩

/-! ### Calls -/

theorem mapLanes_congr {w : Wave} {p : Nat → Bool} {f g : Nat → Lane → Lane} (h : ∀ l, p l = true → f l (w.lane l) = g l (w.lane l)) :
    w.mapLanes p f = w.mapLanes p g := by
  unfold Wave.mapLanes
  congr 1
  refine List.ext_getElem (by simp) (fun l hl _ => ?_)
  have hlane : w.lane l = w.lanes[l]'(by simpa using hl) := by
    unfold Wave.lane
    rw [List.getD_eq_getElem?_getD, List.getElem?_eq_getElem, Option.getD_some]
  simp only [List.getElem_mapIdx]
  split
  · rename_i hp; rw [← hlane]; exact h l hp
  · rfl

theorem lane_mapLanes {w : Wave} {p : Nat → Bool} {f : Nat → Lane → Lane} {l : Nat} (hl : l < w.lanes.length) (hp : p l = true) :
    (w.mapLanes p f).lane l = f l (w.lane l) := by
  unfold Wave.mapLanes Wave.lane
  simp [hl, hp]

theorem mapLanes_length {w : Wave} {p : Nat → Bool} {f : Nat → Lane → Lane} : (w.mapLanes p f).lanes.length = w.lanes.length := by
  simp [Wave.mapLanes]

/-- The issuing wave once the return address stands on each stack of `active`: alone there where the hardware entries were full and have
left as a spilled frame (R35, R36). -/
def pushed (c : Issue) : Wave :=
  c.wave.mapLanes c.active.contains (fun _ y =>
    if 16 ≤ y.stack.length then { y with stack := [(BitVec.ofNat 32 (c.pc + 12), false)], spilled := y.spilled + 1 }
    else { y with stack := (BitVec.ofNat 32 (c.pc + 12), false) :: y.stack })

/-- The lanes of `active` whose return stack is full, and the frames that leave them (R36). -/
def fullLanes (c : Issue) : List Nat := c.active.filter (fun l => decide (16 ≤ (c.wave.lane l).stack.length))
def spillAll (s : State) (c : Issue) : Except Stop State :=
  (fullLanes c).foldlM (fun t l => spillFrame t c l (c.wave.lane l).spilled ((c.wave.lane l).stack.map Prod.fst).reverse) s

/-- What a spilled frame changes of the state: dirty sectors and the L1 words under them, the next name, and the translation used. -/
def SpillsTo (s t : State) : Prop :=
  t = { s with dirty := t.dirty, fresh := t.fresh, tlb := t.tlb, l1Bad := t.l1Bad, module := { s.module with walked := t.module.walked } }

theorem SpillsTo.trans (h : SpillsTo s t) (k : SpillsTo t u) : SpillsTo s u := Eq.trans k (by rw [h])

theorem spillsTo_touchPage (p : Part) (die va : Nat) : SpillsTo s (s.touchPage p die va) := by
  unfold State.touchPage
  dsimp only
  split
  · rfl
  · split <;> rfl
  · rfl

theorem spillsTo_take : SpillsTo s s.take.2 := rfl

theorem spillsTo_dirtyByte (core wave a va age : Nat) (v : Byte) : SpillsTo s (s.dirtyByte core wave a va age v) := by
  unfold State.dirtyByte
  split <;> rfl

theorem spillsTo_foldl {α : Type} {f : State → α → State} (hf : ∀ s a, SpillsTo s (f s a)) (ls : List α) (s : State) :
    SpillsTo s (ls.foldl f s) := by
  induction ls generalizing s with
  | nil => rfl
  | cons a ls ih => exact (hf s a).trans (ih _)

theorem spillsTo_dirtyBytes (core wave age : Nat) (cells : List (Nat × Nat × Byte)) : SpillsTo s (s.dirtyBytes core wave age cells) :=
  (spillsTo_foldl (fun _ _ => spillsTo_dirtyByte _ _ _ _ _ _) cells s).trans rfl

theorem ok_of_bind {α β : Type} {e : Except Stop α} {f : α → Except Stop β} {r : β} (h : e >>= f = .ok r) : ∃ a, e = .ok a ∧ f a = .ok r := by
  cases e with
  | error _ => cases h
  | ok a => exact ⟨a, rfl, h⟩

theorem spillsTo_spillFrame {l n : Nat} {entries : List Word} (h : spillFrame s c l n entries = .ok t) : SpillsTo s t := by
  unfold spillFrame at h
  obtain ⟨a, -, h⟩ := ok_of_bind h
  obtain ⟨-, -, h⟩ := ok_of_bind h
  cases h
  exact (spillsTo_touchPage _ _ _).trans (spillsTo_take.trans (spillsTo_dirtyBytes _ _ _ _))

theorem spillsTo_foldlM {α : Type} {f : State → α → Except Stop State} (hf : ∀ s a t, f s a = .ok t → SpillsTo s t) {ls : List α} {s : State}
    (h : ls.foldlM f s = .ok t) : SpillsTo s t := by
  induction ls generalizing s with
  | nil => cases h; rfl
  | cons a ls ih =>
    rw [List.foldlM_cons] at h
    obtain ⟨v, hv, hr⟩ := ok_of_bind h
    exact (hf s a v hv).trans (ih hr)

theorem spillsTo_spillAll (h : spillAll s c = .ok t) : SpillsTo s t := spillsTo_foldlM (fun _ _ _ => spillsTo_spillFrame) h

theorem spillAll_of_fullLanes_nil (h : fullLanes c = []) : spillAll s c = .ok s := by unfold spillAll; rw [h]; rfl

theorem wave?_of_spillsTo (h : SpillsTo s t) (v : Nat) : t.wave? v = s.wave? v := by rw [h]; rfl

/-- A call's push where no stack overflows and the full stacks' frames can be written (R35 to R37). -/
theorem pushReturn_ok (hw : s.wave? c.wave.uid = some c.wave)
    (ho : ∀ l ∈ c.active, 16 ≤ (c.wave.lane l).stack.length → (c.wave.lane l).spilled < 64) (hs : spillAll s c = .ok t) :
    ∃ u, pushReturn s c = .ok u ∧ OwnIs t u c (pushed c) := by
  have hover : c.active.any (fun l =>
      decide (stackDepth ≤ (c.wave.lane l).stack.length) && decide (spillFrames ≤ (c.wave.lane l).spilled)) = false := by
    rw [List.any_eq_false]
    intro l hl
    simp only [Bool.and_eq_true, decide_eq_true_eq]
    exact fun h => Nat.not_le.2 (ho l hl h.1) h.2
  have hfull : ∀ l, c.active.contains l = true → (fullLanes c).contains l = decide (16 ≤ (c.wave.lane l).stack.length) := by
    intro l hl
    rw [Bool.eq_iff_iff]
    simp [fullLanes, List.contains_iff_mem.1 hl]
  refine ⟨_, ?_, ownIs_own (f := ?f) ?_ ((wave?_of_spillsTo (spillsTo_spillAll hs) _).trans hw) ?_⟩
  · unfold pushReturn
    rw [hover]
    show (spillAll s c >>= fun u => _) = _
    rw [hs]
    rfl
  · exact fun _ => rfl
  · exact mapLanes_congr (fun l hl => ite_congr (propext ((Bool.eq_iff_iff.1 (hfull l hl)).trans decide_eq_true_iff)) (fun _ => rfl) (fun _ => rfl))

theorem call_past {srcs : List Src} {disp : Operand} {reg : Option Operand} (hc : s.issue? x = some c) (hr : Readable s c srcs .zero 1)
    (hp : Sound s c srcs) (hg : GuardSound c x) (ht : goodTransfer c (transferTo s c disp reg))
    (ho : ∀ l ∈ c.active, 16 ≤ (c.wave.lane l).stack.length → (c.wave.lane l).spilled < 64) (hs : spillAll s c = .ok u)
    {k : Issue → Except Stop (State × List (Nat × Nat))}
    (hk : k c = (do
      checkTransfer s c x srcs (targets s c disp reg)
      let v ← pushReturn s c
      .ok (v, jumpsTo (targets s c disp reg)))) :
    ∃ t, issueJump s x k = .next t ∧ Past u t c x (landing c (transferTo s c disp reg)) (pushed c) := by
  obtain ⟨v, hv, hown⟩ := pushReturn_ok (issue?_wave hc) ho hs
  refine ⟨_, issueJump_ok hc (hk.trans ?_), past_transfer hc hown mapLanes_length ht⟩
  rw [targets_eq, checkTransfer_ok hr hp hg ht, hv]
  rfl

theorem pushed_of_room (h : ∀ l ∈ c.active, (c.wave.lane l).stack.length < 16) :
    pushed c = c.wave.mapLanes c.active.contains (fun _ y => { y with stack := (BitVec.ofNat 32 (c.pc + 12), false) :: y.stack }) :=
  mapLanes_congr (fun l hl => if_neg (Nat.not_le.2 (h l (List.contains_iff_mem.1 hl))))

theorem fullLanes_of_room (h : ∀ l ∈ c.active, (c.wave.lane l).stack.length < 16) : fullLanes c = [] :=
  List.filter_eq_nil_iff.2 (fun l hl => by simp [h l hl])

theorem calls_hold : calls := by
  intro s x c indexed hc i srcs to_ link hr hp hg ht
  have hcall : ∀ u, (∀ l ∈ c.active, 16 ≤ (c.wave.lane l).stack.length → (c.wave.lane l).spilled < 64) → spillAll s c = .ok u →
      ∃ t, exec i s = .next t ∧ Past u t c x (landing c to_) (pushed c) := by
    intro u ho hs
    cases indexed with
    | false => exact call_past (disp := x.a) (reg := none) hc hr hp hg ht ho hs rfl
    | true => exact call_past (disp := x.b) (reg := some x.a) hc hr hp hg ht ho hs rfl
  refine ⟨fun hroom => ?_, fun s' ho hs => ⟨hcall s' ho hs, ?_⟩⟩
  · rw [← pushed_of_room hroom]
    exact hcall s (fun l hl h => absurd h (Nat.not_le.2 (hroom l hl))) (spillAll_of_fullLanes_nil (fullLanes_of_room hroom))
  · have h := spillsTo_spillAll hs
    exact ⟨by rw [h], by rw [h]⟩

/-! ### Returns -/

/-- What reads of spilled frames change of the state: the translations used, and the error counts with what the control core is told of
them; these two only where some unit or L1 word is marked (R358, R399). -/
structure ReadsTo (s t : State) : Prop where
  frame : t = { s with tlb := t.tlb, module := { s.module with walked := t.module.walked, errors := t.module.errors }, events := t.events }
  quiet : s.bad = [] → s.lost = [] → s.l1Bad = [] → t.module.errors = s.module.errors ∧ t.events = s.events

theorem ReadsTo.refl (s : State) : ReadsTo s s := ⟨rfl, fun _ _ _ => ⟨rfl, rfl⟩⟩

theorem ReadsTo.trans (h : ReadsTo s t) (k : ReadsTo t u) : ReadsTo s u := by
  refine ⟨k.frame.trans (by rw [h.frame]), fun hb hl h1 => ?_⟩
  obtain ⟨he, hv⟩ := h.quiet hb hl h1
  obtain ⟨he', hv'⟩ := k.quiet (by rw [h.frame]; exact hb) (by rw [h.frame]; exact hl) (by rw [h.frame]; exact h1)
  exact ⟨he'.trans he, hv'.trans hv⟩

theorem ReadsTo.wave? (h : ReadsTo s t) (v : Nat) : t.wave? v = s.wave? v := by rw [h.frame]; rfl

theorem readsTo_foldl {α : Type} {f : State → α → State} (hf : ∀ s a, ReadsTo s (f s a)) (ls : List α) (s : State) :
    ReadsTo s (ls.foldl f s) := by
  induction ls generalizing s with
  | nil => exact .refl s
  | cons a ls ih => exact (hf s a).trans (ih _)

theorem readsTo_touchPage (p : Part) (die va : Nat) : ReadsTo s (s.touchPage p die va) := by
  unfold State.touchPage
  dsimp only
  split
  · exact .refl s
  · split
    · exact .refl s
    · exact ⟨rfl, fun _ _ _ => ⟨rfl, rfl⟩⟩
  · exact ⟨rfl, fun _ _ _ => ⟨rfl, rfl⟩⟩

/-- An error is counted only where something is marked. -/
theorem readsTo_noteError (place addr part : Nat) (h : ¬ (s.bad = [] ∧ s.lost = [] ∧ s.l1Bad = [])) : ReadsTo s (s.noteError place addr part) :=
  ⟨rfl, fun hb hl h1 => absurd ⟨hb, hl, h1⟩ h⟩

theorem readsTo_noteSectors (part : Nat) (secs : List Nat) : ReadsTo s (noteSectors s part secs) := by
  refine readsTo_foldl (fun s y => ?_) secs s
  split
  · rename_i hbad
    refine readsTo_noteError _ _ _ (fun ⟨hb, hl, _⟩ => ?_)
    simp [State.isBad, hb, hl] at hbad
  · exact .refl s

theorem readsTo_noteL1 (part core : Nat) (secs : List Nat) : ReadsTo s (noteL1 s part core secs) := by
  have hframe : ∀ (es : List (Nat × Nat)) (t : State), t.l1Bad ≠ [] → ReadsTo t (es.foldl (fun t e => t.noteError 3 (4 * e.2) part) t) := by
    intro es
    induction es with
    | nil => exact fun t _ => .refl t
    | cons e es ih => exact fun t ht => (readsTo_noteError _ _ _ (fun h => ht h.2.2)).trans (ih _ ht)
  unfold noteL1
  by_cases h : s.l1Bad = []
  · rw [h]; exact .refl s
  · exact hframe _ s h

theorem readsTo_touchFrame (l n : Nat) : ReadsTo s (touchFrame s c l n) := by
  unfold touchFrame
  dsimp only
  split
  · exact (readsTo_touchPage _ _ _).trans ((readsTo_noteSectors _ _).trans (readsTo_noteL1 _ _ _))
  · exact readsTo_touchPage _ _ _

theorem mapM_eq_ok {α β : Type} {f : α → Except Stop β} {g : α → β} {ls : List α} (h : ∀ a ∈ ls, f a = .ok (g a)) :
    ls.mapM f = .ok (ls.map g) := by
  induction ls with
  | nil => rfl
  | cons a ls ih =>
    rw [List.mapM_cons, h a List.mem_cons_self, ih (fun b hb => h b (List.mem_cons_of_mem _ hb))]
    rfl

/-- The stacks of `active` as RET finds them, each with a sound entry on top. -/
def topped (c : Issue) (link : Nat → Word) (rest : Nat → List (Word × Bool)) : List (Nat × List (Word × Bool)) :=
  c.active.map (fun l => (l, (link l, false) :: rest l))

theorem checkReturn_topped {link : Nat → Word} {rest : Nat → List (Word × Bool)} (ht : goodTransfer c (fun l => ((link l).toNat : Int))) :
    checkReturn c (topped c link rest) (c.active.map (fun l => (l, ((link l).toNat : Int)))) = .ok () := by
  have hsound : (topped c link rest).any (fun e => (e.2.head?.map Prod.snd).getD false) = false := by simp [topped]
  have hfull : (topped c link rest).any (fun e => e.2.isEmpty) = false := by simp [topped]
  unfold checkReturn
  rw [hsound, checkTargets_good ht, hfull]
  rfl

theorem topped_find? {link : Nat → Word} {rest : Nat → List (Word × Bool)} {l : Nat} (hl : l ∈ c.active) :
    (topped c link rest).find? (fun e => e.1 == l) = some (l, (link l, false) :: rest l) := by
  unfold topped
  rw [List.find?_map]
  show (c.active.find? (fun k => k == l)).map _ = _
  rw [find?_beq_self hl]
  rfl

/-- The issuing wave once RET has popped the top entry of each lane of `active` (R36, R210). -/
def popped (c : Issue) (rest : Nat → List (Word × Bool)) : Wave :=
  c.wave.mapLanes c.active.contains (fun l y => { y with stack := rest l, spilled := if y.stack = [] then y.spilled - 1 else y.spilled })

theorem return_past {link : Nat → Word} {rest : Nat → List (Word × Bool)} (hc : s.issue? x = some c) (hg : GuardSound c x)
    (hst : ∀ l ∈ c.active, filledStack s c l = .ok ((link l, false) :: rest l)) (ht : goodTransfer c (fun l => ((link l).toNat : Int))) :
    ∃ u t, ReadsTo s u ∧ exec (.ret x) s = .next t ∧ Past u t c x (landing c (fun l => ((link l).toNat : Int))) (popped c rest) := by
  have hsts : c.active.mapM (fun l => (filledStack s c l).map (fun st => (l, st))) = .ok (topped c link rest) :=
    mapM_eq_ok (fun l hl => by rw [hst l hl]; rfl)
  have hts : (topped c link rest).filterMap (fun e => e.2.head?.map (fun d => (e.1, (d.1.toNat : Int)))) =
      c.active.map (fun l => (l, ((link l).toNat : Int))) := by
    simp [topped, List.filterMap_map, Function.comp_def]
  have hreads : ReadsTo s ((refills c).foldl (fun s l => touchFrame s c l ((c.wave.lane l).spilled - 1)) s) :=
    readsTo_foldl (fun _ _ => readsTo_touchFrame _ _) _ s
  refine ⟨_, _, hreads, issueJump_ok hc ?_, past_transfer hc (ownIs_own (f := ?f) ?_ ((hreads.wave? _).trans (issue?_wave hc)) ?_) ?_ ht⟩
  · rw [guardUse_sound hg]
    show (c.active.mapM (fun l => (filledStack s c l).map (fun st => (l, st))) >>= fun sts => _) = _
    rw [hsts]
    show (afterReads _ c (checkReturn c _ ((topped c link rest).filterMap _)) >>= fun _ =>
      Except.ok (_, jumpsTo ((topped c link rest).filterMap _))) = _
    rw [hts, checkReturn_topped ht]
    rfl
  · exact fun _ => rfl
  · exact mapLanes_congr (fun l hl => by
      rw [topped_find? (List.contains_iff_mem.1 hl)]
      simp only [List.tail_cons, List.isEmpty_iff])
  · exact mapLanes_length

/-- The fields that a step past keeps of the state before it: all but the waves. -/
theorem past_keeps {α : Type} {to_ : Nat → Nat} {own : Wave} (g : State → α) (hg : ∀ (v : State) ws, g { v with waves := ws } = g v)
    (h : Past u t c x to_ own) : g t = g u := by
  rw [← hg t u.waves, h.1.rest]

theorem returns_hold (link : Nat → Word) (rest : Nat → List (Word × Bool)) (hc : s.issue? x = some c) (hg : GuardSound c x)
    (hst : ∀ l ∈ c.active, filledStack s c l = .ok ((link l, false) :: rest l)) (ht : goodTransfer c (fun l => ((link l).toNat : Int))) :
    ∃ t, exec (.ret x) s = .next t ∧
      Past { s with tlb := t.tlb, module := { s.module with walked := t.module.walked, errors := t.module.errors }, events := t.events } t c x
        (landing c (fun l => ((link l).toNat : Int))) (popped c rest) ∧
      (s.bad = [] → s.lost = [] → s.l1Bad = [] → t.module.errors = s.module.errors ∧ t.events = s.events) := by
  obtain ⟨u, t, hreads, he, hp⟩ := return_past hc hg hst ht
  have htlb : t.tlb = u.tlb := past_keeps State.tlb (fun _ _ => rfl) hp
  have hmod : t.module = u.module := past_keeps State.module (fun _ _ => rfl) hp
  have hev : t.events = u.events := past_keeps State.events (fun _ _ => rfl) hp
  refine ⟨t, he, ?_, ?_⟩
  · rw [htlb, hmod, hev, ← hreads.frame]
    exact hp
  · rw [hmod, hev]
    exact hreads.quiet

/-! ### EXIT -/

/-- The issuing wave once the lanes of `active` have exited (R211). -/
def exited (c : Issue) : Wave := c.wave.mapLanes c.active.contains (fun _ y => y.exit)

theorem exited_not_live {l : Nat} (h : l ∈ c.active) (hl : l < c.wave.lanes.length) : (exited c).isLive l = false := by
  unfold exited Wave.isLive
  rw [lane_mapLanes hl (List.contains_iff_mem.2 h)]
  rfl

theorem exit_past (hc : s.issue? x = some c) (hg : GuardSound c x) (hs : c.pc + 12 < c.codeSize ∨ ∀ l ∈ c.group, l ∈ c.active) :
    ∃ t, exec (.exit x) s = .next t ∧
      Past (if (exited c).liveLanes = [] then s.withdraw c.block.cluster (· == c.wave.uid) else s) t c x (onward c) (exited c) := by
  have hlanes : ∀ l ∈ c.group, l < c.wave.lanes.length := fun l hl => lane_lt_of_live (group_live hc hl).2
  have hown : OwnIs s (s.own c (fun w => w.mapLanes c.active.contains (fun _ y => y.exit))) c (exited c) :=
    ownIs_own (fun _ => rfl) (issue?_wave hc) rfl
  have hpast : ∀ b t, OwnIs b t c (exited c) → Past b (t.finish c x []) c x (onward c) (exited c) := fun b t h =>
    past_finish_of_ownIs h (fun l hl => (mapLanes_length (w := c.wave)).symm ▸ hlanes l hl)
      (hs.imp id (fun ha l hl => .inl (exited_not_live (ha l hl) (hlanes l hl))))
  by_cases hlive : (exited c).liveLanes = []
  · rw [if_pos hlive]
    refine ⟨_, issue_ok hc ?_, hpast _ _ (ownIs_withdraw hown _ _)⟩
    rw [guardUse_sound hg]
    dsimp only [bind, Except.bind]
    rw [hown.own]
    exact if_pos (List.isEmpty_iff.2 hlive)
  · rw [if_neg hlive]
    refine ⟨_, issue_ok hc ?_, hpast _ _ hown⟩
    rw [guardUse_sound hg]
    dsimp only [bind, Except.bind]
    rw [hown.own]
    exact if_neg (fun h => hlive (List.isEmpty_iff.1 h))

theorem returnsAndExits_hold : returnsAndExits :=
  ⟨fun _ _ _ link rest hc hg hst ht => returns_hold link rest hc hg hst ht, fun _ _ _ hc hg hs => exit_past hc hg hs⟩

/-- Settles O12: at good targets every check passes and no lane leaves the code, so that stepping past is the move to the targets, after
the push, the pop or the exit has changed the issuing wave alone. -/
theorem controlTransfers : Obligations.ControlTransfers := ⟨branches_hold, calls_hold, returnsAndExits_hold⟩

end Sys2Proof.Machine
end

section
/-! SUPPORT. YIELD, BPT and TRAP (R212 to R214, R378): what stepping past does inside the code, what the handler finds on delivery of a
precise fault, and from these the statement about the three forms. -/

namespace Sys2Proof.Machine

variable {s t u : State} {x : Fields} {c : Issue}

/-- Stepping past inside the code, after a change of the issuing wave that keeps its lanes. -/
theorem past_onward {own : Wave} (hm : Meets s x c) (h : OwnIs u t c own) (hn : own.lanes.length = c.wave.lanes.length) :
    Past u (t.finish c x []) c x (onward c) own :=
  past_finish_of_ownIs h (fun _ hl => hn ▸ lane_lt_of_live (group_live hm.head hl).2) (.inl hm.inside)

/-- A message to the control core leaves the waves alone. -/
theorem ownIs_tell {own : Wave} (h : OwnIs s t c own) (e : CcEvent) : OwnIs (s.tell e) (t.tell e) c own :=
  ⟨congrArg (fun v => v.tell e) h.rest, h.others, h.own⟩

/-! ### YIELD -/

theorem exec_yield (hc : s.issue? x = some c) : exec (.yield x) s = .next
    ((if c.active = [] ∨ sliceMates s c = [] then s
      else s.own c (fun w => { w with yielded := some { mates := sliceMates s c, left := 64 } })).finish c x []) := by
  show execYield x s = _
  unfold execYield
  exact issue_ok hc (congrArg Except.ok (ite_congr (by simp) (fun _ => rfl) (fun _ => rfl)))

theorem yield_past (hm : Meets s x c) : ∃ t, exec (.yield x) s = .next t ∧ Past s t c x (onward c)
    { c.wave with yielded := if c.active = [] ∨ sliceMates s c = [] then c.wave.yielded else some { mates := sliceMates s c, left := 64 } } := by
  have hw := issue?_wave hm.head
  refine ⟨_, exec_yield hm.head, ?_⟩
  by_cases h : c.active = [] ∨ sliceMates s c = []
  · simp only [if_pos h]
    exact past_onward hm (ownIs_self hw) rfl
  · simp only [if_neg h]
    refine past_onward hm (ownIs_own (fun _ => rfl) hw ?_) ?_ <;> rfl

/-! ### BPT -/

theorem bpt_past_of_idle (hm : Meets s x c) (h : c.part.debugger = false ∨ c.active = []) :
    ∃ t, exec (.bpt x) s = .next t ∧ Past s t c x (onward c) c.wave := by
  refine ⟨_, issue_ok hm.head ?_, past_onward hm (ownIs_self (issue?_wave hm.head)) rfl⟩
  exact if_pos (by simpa [or_comm] using h)

theorem bpt_past_of_attached (hm : Meets s x c) (hd : c.part.debugger = true) (ha : c.active ≠ []) :
    ∃ t, exec (.bpt x) s = .next t ∧
      Past (s.tell (.debug c.wave.uid c.pc (bits32 s c x.a 0))) t c x (onward c) { c.wave with stopped := true } := by
  have hown : OwnIs s (s.own c (fun w => { w with stopped := true })) c { c.wave with stopped := true } :=
    ownIs_own (fun _ => rfl) (issue?_wave hm.head) rfl
  refine ⟨_, issue_ok hm.head ?_, past_onward hm (ownIs_tell hown _) rfl⟩
  exact if_neg (by simp [hd, ha])

/-! ### TRAP and the delivery of a precise fault -/

/-- A precise fault at user level, but for COLLECTIVE_SPLIT, goes to the partition's handler where it has one (R378). -/
theorem ownIs_raise {tr : Trap} {rpc : Nat} (hc : s.issue? x = some c) (hu : c.wave.handler = false) (hs : c.part.xlate.hsize ≠ 0)
    (ht : tr.code ≠ Cause.collectiveSplit) : OwnIs s (s.raise c tr rpc) c (c.wave.enterHandler c tr rpc) := by
  have he : s.raise c tr rpc = s.own c (fun w => w.enterHandler c tr rpc) := by
    unfold State.raise
    rw [if_neg (by simp [hu]), if_neg (not_or.2 ⟨hs, ht⟩)]
  rw [he]
  exact ownIs_own (fun _ => rfl) (issue?_wave hc) rfl

theorem lane_enterHandler {w : Wave} {tr : Trap} {rpc l : Nat} (hl : l < w.lanes.length) :
    (w.enterHandler c tr rpc).lane l =
      if l ∈ c.group then { w.lane l with pc := 0, held := false }
      else if (w.lane l).state = .live then { w.lane l with frozen := true } else w.lane l := by
  unfold Wave.enterHandler Wave.lane
  simp [hl]

/-- Everything but the lanes, the trap record, the level and what the wave waits for is as it was. -/
theorem enterHandler_rest {w : Wave} {tr : Trap} {rpc : Nat} (hu : w.handler = false) :
    { w.enterHandler c tr rpc with lanes := w.lanes, trap := w.trap, handler := false, wait := w.wait } = w := by
  rw [← hu]; rfl

/-- The fault that TRAP takes. -/
def userTrap (s : State) (c : Issue) (x : Fields) : Trap := { code := Cause.userTrap, detail := bits32 s c x.a 0, addr := 0 }

theorem trap_raises (hc : s.issue? x = some c) (ha : c.active ≠ []) (hr : Readable s c [srcA x 1] .zero 1) (hp : Sound s c [srcA x 1]) :
    exec (.trap x) s = .next (s.raise c (userTrap s c x) (c.pc + 12)) := by
  refine issue_trap hc ((if_neg (by simpa using ha)).trans ?_)
  rw [checkOperands_ready hr, checkPoison_sound hp]
  rfl

/-- Settles O13: YIELD and BPT change the issuing wave alone and step past; TRAP's fault is delivered to the handler. -/
theorem yieldTrapAndBreakpoint : Obligations.YieldTrapAndBreakpoint := by
  refine ⟨fun s x c hm => yield_past hm, fun s x c hm => ⟨bpt_past_of_idle hm, bpt_past_of_attached hm⟩, ?_⟩
  intro s x c hc ha hr hp hu hs
  obtain ⟨hrest, hothers, hown⟩ := ownIs_raise (rpc := c.pc + 12) (tr := userTrap s c x) hc hu hs (show Cause.userTrap ≠ Cause.collectiveSplit by decide)
  refine ⟨_, _, trap_raises hc ha hr hp, hrest, hothers, hown, rfl, rfl, fun l hl => ?_, fun l hl hlive => ?_, enterHandler_rest hu⟩
  · rw [lane_enterHandler (lane_lt_of_live (group_live hc hl).2), if_pos hl]
  · have hstate : (c.wave.lane l).state = .live := by simpa [Wave.isLive] using hlive
    rw [lane_enterHandler (lane_lt_of_live hlive), if_neg hl, if_pos hstate]

end Sys2Proof.Machine
end

section
/-! SUPPORT. The privileged instructions at handler level (R381 to R385): MOVCR, MOVRC, ERET, SHDW and TLBI. -/

namespace Sys2Proof.Machine

variable {s t u : State} {x : Fields} {c : Issue}

/-- At handler level no privileged instruction raises PRIV (R381). -/
theorem checkLevel_handler (h : c.wave.handler = true) : checkLevel c = .ok () := by
  unfold checkLevel
  rw [h]
  rfl

/-- A change of the issuing wave counts by what it makes of the wave as it issued. -/
theorem own_congr {f g : Wave → Wave} (hc : s.issue? x = some c) (h : f c.wave = g c.wave) : s.own c f = s.own c g := by
  unfold State.own State.onWave
  rw [issue?_wave hc]
  exact congrArg s.setWave h

theorem sound_append {as_ bs : List Src} (ha : Sound s c as_) (hb : Sound s c bs) : Sound s c (as_ ++ bs) :=
  fun r hr => (List.mem_append.1 hr).elim (ha r) (hb r)

/-! ### MOVCR and MOVRC -/

theorem crNumber_eq : crNumber s c x = (bits32 s c x.a 0).toNat := (bits32_toNat x.a 0).symm

theorem checkCr_ok (h : (bits32 s c x.a 0).toNat < 12) (h7 : (bits32 s c x.a 0).toNat ≠ 7) : checkCr s c x = .ok () := by
  have hnum : trapRegNum (crNumber s c x) = true := by
    rw [crNumber_eq]
    simp only [trapRegNum, Bool.or_eq_true, Bool.and_eq_true, decide_eq_true_eq]
    omega
  unfold checkCr
  rw [hnum]
  rfl

/-- The trap record registers by number; number 7 is none of them (R379). -/
def TrapRegs.listed (r : TrapRegs) : List Word :=
  [r.tcause, r.tdetail, r.toff, r.tlanes, r.taddr.extractLsb' 0 32, r.taddr.extractLsb' 32 32, r.rpc, 0, r.hscr0, r.hscr1, r.hscr2, r.hscr3]

theorem trapRegs_read (r : TrapRegs) {n : Nat} (h : n < 12) : r.read n = r.listed.getD n 0 := by
  have hlow : r.taddr.setWidth 32 = r.taddr.extractLsb' 0 32 := by
    ext i hi; simp
  have hhigh : (r.taddr >>> 32).setWidth 32 = r.taddr.extractLsb' 32 32 := by
    ext i hi; simp
  match n, h with
  | 4, _ => exact hlow
  | 5, _ => exact hhigh
  | 0, _ | 1, _ | 2, _ | 3, _ | 6, _ | 7, _ | 8, _ | 9, _ | 10, _ | 11, _ => rfl

theorem trapRegs_write (r : TrapRegs) (n : Nat) (v : Word) :
    r.write n v = if n = 6 then { r with rpc := v } else if n = 8 then { r with hscr0 := v } else if n = 9 then { r with hscr1 := v }
      else if n = 10 then { r with hscr2 := v } else if n = 11 then { r with hscr3 := v } else r := by
  unfold TrapRegs.write
  split
  · rfl
  · rfl
  · rfl
  · rfl
  · rfl
  · rename_i h6 h8 h9 h10 h11
    rw [if_neg h6, if_neg h8, if_neg h9, if_neg h10, if_neg h11]

theorem movcr_wrote (hm : Meets s x c) (ha : c.active ≠ []) (hh : c.wave.handler = true) (hp : Sound s c [srcA x 1])
    (hn : (bits32 s c x.a 0).toNat < 12) (h7 : (bits32 s c x.a 0).toNat ≠ 7) (hr : Readable s c [srcA x 1] x.d 1) :
    ∃ t, exec (.movcr x) s = .next t ∧
      Wrote s t c x 1 (fun _ => (c.wave.trap.listed.getD (bits32 s c x.a 0).toNat 0).toNat) (fun _ => c.guardPz x) := by
  refine ⟨_, issue_ok hm.head ?_, wrote_putResult hm 1 (guardMark c x (c.wave.trap.listed.getD (bits32 s c x.a 0).toNat 0).toNat)⟩
  rw [checkLevel_handler hh, checkOperands_ready hr, checkPoison_sound hp, List.isEmpty_eq_false_iff.2 ha, checkCr_ok hn h7]
  refine congrArg Except.ok (own_congr hm.head ?_)
  show c.wave.putResult x.d 1 c.active (guardMark c x (c.wave.trap.read (crNumber s c x)).toNat) = _
  rw [crNumber_eq, trapRegs_read _ hn]

theorem movrc_past (hm : Meets s x c) (ha : c.active ≠ []) (hh : c.wave.handler = true) (hp : Sound s c [srcA x 1, srcB x 1])
    (hn : (bits32 s c x.a 0).toNat < 12) (h7 : (bits32 s c x.a 0).toNat ≠ 7) (hr : Readable s c [srcA x 1, srcB x 1] .zero 1) :
    ∃ t, exec (.movrc x) s = .next t ∧
      Past s t c x (onward c) { c.wave with trap := c.wave.trap.write (bits32 s c x.a 0).toNat (bits32 s c x.b 0) } := by
  refine ⟨_, issue_ok hm.head ?_, past_onward hm (ownIs_own (f := ?f) ?_ (issue?_wave hm.head) ?_) ?_⟩
  case f => exact fun w => { w with trap := w.trap.write (crNumber s c x) (BitVec.ofNat 32 (uniformVal s c x.b 1)) }
  · rw [checkLevel_handler hh, checkOperands_ready hr, checkPoison_sound hp, List.isEmpty_eq_false_iff.2 ha, checkCr_ok hn h7]
    rfl
  · exact fun _ => rfl
  · rw [crNumber_eq]; rfl
  · rfl

/-! ### ERET -/

theorem lane_leaveHandler (w : Wave) (group : List Nat) (l : Nat) (h : ∀ k ∈ group, k < w.lanes.length) :
    (w.leaveHandler group).lane l =
      if l ∈ group then { w.lane l with pc := w.trap.rpc.toNat, held := false, frozen := false } else { w.lane l with frozen := false } := by
  unfold Wave.leaveHandler Wave.lane
  simp only [List.getD_eq_getElem?_getD, List.getElem?_mapIdx]
  by_cases hl : l < w.lanes.length
  · simp [hl]
  · have hout : l ∉ group := fun hg => hl (h l hg)
    simp [hl, hout, Lane.absent]

/-- A collective that its whole wave has reached at one address has its effect (R31). -/
theorem collective_whole {k : Effect} (h : Whole c) : collective s c k = k := by
  have hhere : c.wave.presentLanes.filter (fun l => (c.wave.lane l).pc == c.pc) = c.wave.presentLanes :=
    List.filter_eq_self.2 (fun l hl => beq_iff_eq.2 (h.one l hl))
  unfold collective
  simp only [hhere, h.all, Nat.lt_irrefl, if_false]

/-- The jumps of an ERET: every lane of the group to RPC (R383). -/
def returnJumps (c : Issue) : List (Nat × Nat) := c.group.map (fun l => (l, c.wave.trap.rpc.toNat))

theorem exec_eret (hc : s.issue? x = some c) (ha : c.active ≠ []) (hh : c.wave.handler = true) (hw : Whole c)
    (hmod : c.wave.trap.rpc.toNat % 12 = 0) (hin : c.wave.trap.rpc.toNat < c.grid.codesz) :
    exec (.eret x) s = .next ((s.finish c x (returnJumps c)).own c (fun w => w.leaveHandler c.group)) := by
  have hact := List.isEmpty_eq_false_iff.2 ha
  have hgood : ¬ (c.wave.trap.rpc.toNat % 12 ≠ 0 ∨ c.grid.codesz ≤ c.wave.trap.rpc.toNat) := by omega
  show execEret x s = _
  unfold execEret
  refine (issueFull_ok (s' := s) (js := returnJumps c) hc ?_).trans ?_
  · rw [checkLevel_handler hh]
    dsimp only
    rw [collective_whole hw, hact, if_neg hgood]
    rfl
  · rw [hact]
    rfl

theorem eret_returns (hc : s.issue? x = some c) (ha : c.active ≠ []) (hh : c.wave.handler = true) (hw : Whole c)
    (hmod : c.wave.trap.rpc.toNat % 12 = 0) (hin : c.wave.trap.rpc.toNat < c.grid.codesz) :
    ∃ t w, exec (.eret x) s = .next t ∧ OnlyIssuer s t c ∧ t.wave? c.wave.uid = some w ∧ w.handler = false ∧ w.wait = none ∧
      w.stall = x.stall.toNat ∧
      (∀ l, w.lane l = if l ∈ c.group then { c.wave.lane l with pc := c.wave.trap.rpc.toNat, held := false, frozen := false }
                       else { c.wave.lane l with frozen := false }) ∧
      { w with lanes := c.wave.lanes, handler := c.wave.handler, wait := c.wave.wait, stall := c.wave.stall } = c.wave := by
  have hlanes : ∀ l ∈ c.group, l < c.wave.lanes.length := fun l hl => lane_lt_of_live (group_live hc hl).2
  have hjump : ∀ l ∈ c.group, ∃ a, (l, a) ∈ returnJumps c := fun l hl => ⟨_, List.mem_map.2 ⟨l, hl, rfl⟩⟩
  obtain ⟨⟨hrest, hothers⟩, v, hv, hpast, hsame⟩ :=
    past_finish_of_ownIs (x := x) (ownIs_self (issue?_wave hc)) hlanes (.inr (fun l hl => .inr (hjump l hl)))
  obtain ⟨hcount, hlane, hstall, hwait⟩ := hpast
  have htrap : v.trap = c.wave.trap := (congrArg Wave.trap hsame :)
  have huid : ∀ w : Wave, (w.leaveHandler c.group).uid = w.uid := fun _ => rfl
  refine ⟨_, v.leaveHandler c.group, exec_eret hc ha hh hw hmod hin, ⟨?_, fun u hu => ?_⟩, ?_, rfl, hwait, hstall, fun l => ?_, ?_⟩
  · have hback := own_rest (s := s.finish c x (returnJumps c)) (c := c) (fun w => w.leaveHandler c.group)
    exact (congrArg (fun u : State => { u with waves := s.waves }) hback).trans hrest
  · rw [wave?_own u _ huid, if_neg hu, hothers u hu]
  · rw [wave?_own _ _ huid, if_pos rfl, hv]
    rfl
  · rw [lane_leaveHandler v c.group l (fun k hk => hcount ▸ hlanes k hk), hlane l, htrap]
    by_cases hl : l ∈ c.group
    · simp only [if_pos hl]
    · simp only [if_neg hl]
  · exact (congrArg (fun w : Wave => { w with handler := c.wave.handler }) hsame)

/-! ### SHDW -/

theorem shadowWord_eq (n : Nat) :
    shadowWord s c n = if n = 0 then (s.cluster c.block.cluster).epoch else if n = 1 then c.block.persisted
      else if n = 2 then (s.cluster c.block.cluster).backlog else (s.cluster c.block.cluster).stallCount.toNat := by
  unfold shadowWord
  dsimp only
  split
  · rfl
  · rfl
  · rfl
  · rename_i h0 h1 h2
    rw [if_neg h0, if_neg h1, if_neg h2]

theorem shdw_wrote (hm : Meets s x c) (hh : c.wave.handler = true) (hr : Readable s c [] x.d 1) :
    ∃ t, exec (.shdw x) s = .next t ∧
      Wrote s t c x 1 (fun _ => shadowWord s c (bits32 s c x.a 0).toNat % 2 ^ 32) (fun _ => c.guardPz x) := by
  refine ⟨_, issue_ok hm.head ?_, wrote_putResult hm 1 (guardMark c x (shadowWord s c (bits32 s c x.a 0).toNat % 2 ^ 32))⟩
  rw [checkLevel_handler hh, checkOperands_ready hr, bits32_toNat]
  rfl

/-! ### TLBI -/

/-- An entry meets the range exactly where its leaf covers a byte of the range's pages (R385). -/
theorem meets_eq_invalidated (e : TlbEntry) (addr n : Nat) : e.meets addr n = invalidated e addr n := by
  simp only [TlbEntry.meets, invalidated, Nat.succ_mul]

theorem dropTlb_eq (p addr n : Nat) :
    s.dropTlb p addr n = { s with tlb := s.tlb.filter (fun e => ! (e.part == p && invalidated e addr n)) } := by
  simp only [State.dropTlb, meets_eq_invalidated]

theorem ownIs_dropTlb {own : Wave} (h : OwnIs s t c own) (p addr n : Nat) : OwnIs (s.dropTlb p addr n) (t.dropTlb p addr n) c own :=
  ⟨congrArg (fun v => v.dropTlb p addr n) h.rest, h.others, h.own⟩

/-- Which pages may be in use does not depend on the cached translations. -/
theorem usesPages_dropTlb (p : Part) (i a m addr n : Nat) : usesPages (s.dropTlb i a m) p addr n = usesPages s p addr n := rfl

theorem tlbi_past (hm : Meets s x c) (ha : c.active ≠ []) (hh : c.wave.handler = true) (hr : Readable s c [srcA x 2, srcB x 1] .zero 1)
    (hp : Sound s c [srcA x 2, srcB x 1]) (hu : usesPages s c.part (bits64 s c x.a 0).toNat (bits32 s c x.b 0).toNat = false) :
    ∃ t, exec (.tlbi x) s = .next t ∧
      Past (s.dropTlb c.part.id (bits64 s c x.a 0).toNat (bits32 s c x.b 0).toNat) t c x (onward c) c.wave := by
  rw [bits64_toNat, bits32_toNat] at hu ⊢
  refine ⟨_, issue_ok hm.head ?_, past_onward hm (ownIs_dropTlb (ownIs_self (issue?_wave hm.head)) _ _ _) rfl⟩
  rw [checkLevel_handler hh, checkOperands_ready hr, checkPoison_sound hp, List.isEmpty_eq_false_iff.2 ha]
  show (stopIf (usesPages (s.dropTlb _ _ _) c.part (uniformVal s c x.a 2) (uniformVal s c x.b 1)) _ >>= _) = _
  rw [usesPages_dropTlb]
  unfold uniformVal
  rw [hu]
  rfl

theorem shadowAndTlb_hold : shadowAndTlb := by
  refine ⟨fun s x c hm hh hr => ?_, fun s x c hm ha hh hr hp hu => ?_⟩
  · obtain ⟨t, ht, hw⟩ := shdw_wrote hm hh hr
    rw [shadowWord_eq] at hw
    exact ⟨t, ht, hw⟩
  · obtain ⟨t, ht, hpast⟩ := tlbi_past hm ha hh hr hp hu
    rw [dropTlb_eq] at hpast
    exact ⟨t, ht, hpast⟩

end Sys2Proof.Machine
end

section
/-! SUPPORT. The kill of a grid (R380): what each of its steps can do to grids, blocks, waves, partitions and the events to the control core. -/

namespace Sys2Proof.Machine

variable {s t u : State} {x : Fields} {c : Issue}

/-! ### What the steps of a kill keep -/

/-- What a step of a kill keeps of a partition: its translation block, the kill records that wait, and that an open gate stays open. -/
structure PartKept (p q : Part) : Prop where
  id : q.id = p.id
  xlate : q.xlate = p.xlate
  kills : p.kills ⊆ q.kills
  gates : ∀ g ∈ q.gates, ∃ h ∈ p.gates, h.opener = g.opener ∧ (h.isOpen = true → g.isOpen = true)

theorem PartKept.trans {p q r : Part} (h : PartKept p q) (k : PartKept q r) : PartKept p r := by
  refine ⟨k.id.trans h.id, k.xlate.trans h.xlate, List.Subset.trans h.kills k.kills, fun g hg => ?_⟩
  obtain ⟨g', hg', ho', hi'⟩ := k.gates g hg
  obtain ⟨g'', hg'', ho'', hi''⟩ := h.gates g' hg'
  exact ⟨g'', hg'', ho''.trans ho', hi' ∘ hi''⟩

/-- A change of none of these fields. -/
theorem PartKept.of_eq {p q : Part} (hi : q.id = p.id) (hx : q.xlate = p.xlate) (hk : q.kills = p.kills) (hg : q.gates = p.gates) :
    PartKept p q :=
  ⟨hi, hx, hk ▸ List.Subset.refl _, fun g h => ⟨g, hg ▸ h, rfl, fun k => k⟩⟩

theorem PartKept.refl (p : Part) : PartKept p p := .of_eq rfl rfl rfl rfl

/-- `t` has come from `s` by steps that bring no grid, block or wave, take back no event, and keep each partition so. -/
structure Dwindles (s t : State) : Prop where
  grids : t.grids ⊆ s.grids
  blocks : ∀ b ∈ t.blocks, ∃ a ∈ s.blocks, a.uid = b.uid ∧ a.grid = b.grid
  waves : ∀ w ∈ t.waves, ∃ v ∈ s.waves, v.block = w.block
  events : s.events ⊆ t.events
  parts : ∀ i p, s.part? i = some p → ∃ q, t.part? i = some q ∧ PartKept p q

theorem Dwindles.trans (h : Dwindles s t) (k : Dwindles t u) : Dwindles s u := by
  refine ⟨List.Subset.trans k.grids h.grids, fun b hb => ?_, fun w hw => ?_, List.Subset.trans h.events k.events, fun i p hp => ?_⟩
  · obtain ⟨b', hb', hu', hg'⟩ := k.blocks b hb
    obtain ⟨b'', hb'', hu'', hg''⟩ := h.blocks b' hb'
    exact ⟨b'', hb'', hu''.trans hu', hg''.trans hg'⟩
  · obtain ⟨w', hw', he'⟩ := k.waves w hw
    obtain ⟨w'', hw'', he''⟩ := h.waves w' hw'
    exact ⟨w'', hw'', he''.trans he'⟩
  · obtain ⟨q, hq, hpq⟩ := h.parts i p hp
    obtain ⟨r, hr, hqr⟩ := k.parts i q hq
    exact ⟨r, hr, hpq.trans hqr⟩

/-- Lists that only lose members, where partitions stay as they are. -/
theorem Dwindles.of_sub (hg : t.grids ⊆ s.grids) (hb : t.blocks ⊆ s.blocks) (hw : t.waves ⊆ s.waves) (he : s.events ⊆ t.events)
    (hp : t.parts = s.parts) : Dwindles s t := by
  refine ⟨hg, fun b h => ⟨b, hb h, rfl, rfl⟩, fun w h => ⟨w, hw h, rfl⟩, he, fun i p h => ⟨p, ?_, .refl p⟩⟩
  unfold State.part?
  rw [hp]
  exact h

/-- A change of other fields alone. -/
theorem Dwindles.of_eq (hg : t.grids = s.grids) (hb : t.blocks = s.blocks) (hw : t.waves = s.waves) (he : t.events = s.events)
    (hp : t.parts = s.parts) : Dwindles s t :=
  .of_sub (hg ▸ List.Subset.refl _) (hb ▸ List.Subset.refl _) (hw ▸ List.Subset.refl _) (he ▸ List.Subset.refl _) hp

theorem Dwindles.refl (s : State) : Dwindles s s := .of_eq rfl rfl rfl rfl rfl

theorem dwindles_foldl {α : Type} {f : State → α → State} (hf : ∀ s a, Dwindles s (f s a)) (ls : List α) (s : State) :
    Dwindles s (ls.foldl f s) := by
  induction ls generalizing s with
  | nil => exact .refl s
  | cons a ls ih => exact (hf s a).trans (ih _)

/-! ### The operations of the state -/

theorem dwindles_tell (e : CcEvent) : Dwindles s (s.tell e) :=
  .of_sub (List.Subset.refl _) (List.Subset.refl _) (List.Subset.refl _) (List.subset_append_left _ _) rfl

theorem mem_tell (e : CcEvent) : e ∈ (s.tell e).events := List.mem_append_right _ List.mem_cons_self

theorem part?_id {i : Nat} {p : Part} (h : s.part? i = some p) : p.id = i := by
  have := List.find?_some h
  simpa using this

theorem part?_setPart (p : Part) (i : Nat) : (s.setPart p).part? i = (s.part? i).map (fun q => if q.id = p.id then p else q) := by
  unfold State.part? State.setPart
  rw [List.find?_map]
  refine congrArg (Option.map _) (congrArg (fun f => List.find? f s.parts) (funext fun q => ?_))
  by_cases hq : q.id = p.id
  · simp [hq]
  · simp [hq]

/-- A change of one partition that keeps its number. -/
theorem part?_onPart {f : Part → Part} (hf : ∀ p, (f p).id = p.id) (i j : Nat) :
    (s.onPart i f).part? j = if j = i then (s.part? j).map f else s.part? j := by
  unfold State.onPart
  cases hi : s.part? i with
  | none => by_cases hj : j = i <;> simp [hj, hi]
  | some p =>
    have hid := part?_id hi
    rw [part?_setPart, hf, hid]
    by_cases hj : j = i
    · subst hj
      simp [hi, hid]
    · cases hq : s.part? j with
      | none => simp
      | some q => simp [hj, part?_id hq]

theorem part?_onPart_self {f : Part → Part} {i : Nat} {p : Part} (hf : ∀ p, (f p).id = p.id) (hp : s.part? i = some p) :
    (s.onPart i f).part? i = some (f p) := by
  rw [part?_onPart hf, if_pos rfl, hp]
  rfl

theorem dwindles_onPart {f : Part → Part} (hf : ∀ p, PartKept p (f p)) (i : Nat) : Dwindles s (s.onPart i f) := by
  refine ⟨?_, fun b hb => ⟨b, ?_, rfl, rfl⟩, fun w hw => ⟨w, ?_, rfl⟩, ?_, fun j p hp => ?_⟩
  · rw [State.onPart_grids]; exact List.Subset.refl _
  · rwa [State.onPart_blocks] at hb
  · rwa [State.onPart_waves] at hw
  · rw [State.onPart_events]; exact List.Subset.refl _
  · rw [part?_onPart (fun p => (hf p).id), hp]
    by_cases hj : j = i
    · exact ⟨f p, if_pos hj, hf p⟩
    · exact ⟨p, if_neg hj, .refl p⟩

/-! ### Memory -/

theorem dwindles_noteError (place addr part : Nat) : Dwindles s (s.noteError place addr part) :=
  .of_sub (List.Subset.refl _) (List.Subset.refl _) (List.Subset.refl _) (List.subset_append_left _ _) rfl

theorem dwindles_countMoved (part : Nat) (sectors : List Nat) : Dwindles s (s.countMoved part sectors) := .of_eq rfl rfl rfl rfl rfl

theorem dwindles_writeCells (cs : List (Nat × Byte)) : Dwindles s (s.writeCells cs) := by
  apply Dwindles.of_eq <;> simp

theorem dwindles_writeBack (d : Dirty) : Dwindles s (s.writeBack d) :=
  (dwindles_writeCells (State.dirtyCells d)).trans (.of_eq rfl rfl rfl rfl rfl)

theorem dwindles_flush (p : Part) (q : Dirty → Bool) : Dwindles s (s.flush p q) := by
  refine dwindles_foldl (fun s d => ?_) _ s
  have hback : Dwindles s ((s.badWords d).foldl (fun t w => t.noteError 3 (4 * w) p.id) ((s.writeBack d).countMoved p.id [d.sector])) :=
    (dwindles_writeBack d).trans ((dwindles_countMoved _ _).trans
      (dwindles_foldl (fun _ _ => dwindles_noteError _ _ _) _ _))
  dsimp only
  split
  · exact hback.trans (dwindles_noteError _ _ _)
  · exact hback

/-- A change of each wave that leaves it in its block. -/
theorem dwindles_mapWaves {f : Wave → Wave} (hf : ∀ w, (f w).block = w.block) : Dwindles s { s with waves := s.waves.map f } := by
  refine ⟨List.Subset.refl _, fun b hb => ⟨b, hb, rfl, rfl⟩, fun w hw => ?_, List.Subset.refl _, fun i p hp => ⟨p, hp, .refl p⟩⟩
  obtain ⟨v, hv, rfl⟩ := List.mem_map.1 hw
  exact ⟨v, hv, (hf v).symm⟩

theorem dwindles_recallDirty (p : Part) (q : Dirty → Bool) : Dwindles s (s.recallDirty p q) := by
  unfold State.recallDirty
  dsimp only
  split
  · exact dwindles_flush p q
  · exact (dwindles_flush p q).trans (dwindles_mapWaves (fun w => by split <;> rfl))

theorem dwindles_acquireFlush (p : Part) (core sector : Nat) (o : Scope) : Dwindles s (s.acquireFlush p core sector o) := by
  refine (dwindles_recallDirty p (s.acquireSet core sector o)).trans ?_
  unfold State.acquireFlush State.dropStale
  split
  · exact .of_eq rfl rfl rfl rfl rfl
  · exact .refl _

/-- The use of a page changes none of these fields. -/
theorem dwindles_touchPage (p : Part) (die va : Nat) : Dwindles s (s.touchPage p die va) := by
  have h : SpillsTo s (s.touchPage p die va) := spillsTo_touchPage p die va
  rw [h]
  exact .of_eq rfl rfl rfl rfl rfl

/-! ### The front end's accesses -/

theorem dwindles_touchSpan (p : Part) (die va n : Nat) : Dwindles s (s.touchSpan p die va n) :=
  dwindles_foldl (fun _ _ => dwindles_touchPage _ _ _) _ s

theorem dwindles_touchReach (p : Part) (die : Nat) (e : Reach) : Dwindles s (s.touchReach p die e) := by
  have hpage : ∀ va, Dwindles s (if 2 ^ 58 ≤ va || inPrivate p va 1 then s else s.touchPage p die va) := fun va => by
    split
    · exact .refl s
    · exact dwindles_touchPage _ _ _
  cases e with
  | waiting => exact .refl s
  | missing va => exact hpage va
  | denied va => exact hpage va
  | uncorrectable _ va => exact hpage va

/-- A computation of the front end that comes to an end has come through each of its parts. -/
theorem reach_of_bind {α β : Type} {e : Except Reach α} {f : α → Except Reach β} {r : β} (h : e >>= f = .ok r) :
    ∃ a, e = .ok a ∧ f a = .ok r := by
  cases e with
  | error _ => cases h
  | ok a => exact ⟨a, rfl, h⟩

theorem dwindles_feRead {p : Part} {va n : Nat} {r : List Byte × State} (h : s.feRead p va n = .ok r) : Dwindles s r.2 := by
  unfold State.feRead at h
  obtain ⟨as_, -, h⟩ := reach_of_bind h
  dsimp only at h
  split at h
  · cases h
  · split at h
    · cases h
    · cases h
      exact (dwindles_touchSpan _ _ _ _).trans (dwindles_foldl (fun _ _ => dwindles_acquireFlush _ _ _ _) _ _)

theorem dwindles_feWrite {p : Part} {va : Nat} {bs : List Byte} (h : s.feWrite p va bs = .ok t) : Dwindles s t := by
  unfold State.feWrite at h
  obtain ⟨as_, -, h⟩ := reach_of_bind h
  cases h
  exact (dwindles_touchSpan _ _ _ _).trans ((dwindles_foldl (fun _ _ => dwindles_recallDirty _ _) _ _).trans
    ((dwindles_writeCells _).trans (.of_eq rfl rfl rfl rfl rfl)))

theorem dwindles_orStatus {p : Part} {table bits : Nat} (h : s.orStatus p table bits = .ok t) : Dwindles s t := by
  unfold State.orStatus at h
  obtain ⟨r, hr, h⟩ := reach_of_bind h
  exact (dwindles_feRead hr).trans (dwindles_feWrite h)

theorem dwindles_onRun (p table : Nat) (f : GraphRun → GraphRun) : Dwindles s (s.onRun p table f) := by
  refine dwindles_onPart (fun _ => ?_) p
  exact .of_eq rfl rfl rfl rfl

theorem dwindles_markGraph (p table : Nat) : Dwindles s (s.markGraph p table) := by
  unfold State.markGraph
  split
  · exact .refl s
  · dsimp only
    split
    · rename_i h; exact (dwindles_orStatus h).trans (dwindles_onRun _ _ _)
    · exact .refl s
    · exact .refl s
    · exact (dwindles_touchReach _ _ _).trans (dwindles_onRun _ _ _)

/-! ### Faults, channels and residents -/

theorem dwindles_admitFaults (die : Nat) : Dwindles s (s.admitFaults die) := by
  refine dwindles_foldl (fun s f => ?_) _ s
  split
  · exact .of_sub (List.Subset.refl _) (List.Subset.refl _) (List.Subset.refl _) (List.subset_append_left _ _) rfl
  · exact .refl s

theorem dwindles_closeFaults (p : Party → Bool) : Dwindles s (s.closeFaults p) :=
  Dwindles.trans (t := { s with faults := s.faults.filter (fun f => ! p f.party) }) (.of_eq rfl rfl rfl rfl rfl)
    (dwindles_foldl (fun _ _ => dwindles_admitFaults _) _ _)

theorem dwindles_abandon (bs : List Nat) : Dwindles s (s.abandon bs) := by
  unfold State.abandon
  refine Dwindles.trans ?_ (dwindles_closeFaults _)
  exact .of_eq rfl rfl rfl rfl rfl

/-- A change of each block that keeps its name and its grid. -/
theorem dwindles_mapBlocks {f : Block → Block} (hf : ∀ b, (f b).uid = b.uid ∧ (f b).grid = b.grid) : Dwindles s (s.mapBlocks f) := by
  refine ⟨List.Subset.refl _, fun b hb => ?_, fun w hw => ⟨w, hw, rfl⟩, List.Subset.refl _, fun i p hp => ⟨p, hp, .refl p⟩⟩
  obtain ⟨a, ha, rfl⟩ := List.mem_map.1 hb
  exact ⟨a, ha, (hf a).1.symm, (hf a).2.symm⟩

theorem dwindles_mapEnds (part lin endp : Nat) (f : Word → Word → Word) : Dwindles s (s.mapEnds part lin endp f) := by
  refine dwindles_mapBlocks (fun b => ?_)
  split
  · split
    · dsimp only
      split <;> exact ⟨rfl, rfl⟩
    · exact ⟨rfl, rfl⟩
  · exact ⟨rfl, rfl⟩

theorem partKept_setChannel (p : Part) (c : Channel) : PartKept p (p.setChannel c) := by
  unfold Part.setChannel
  split <;> exact .of_eq rfl rfl rfl rfl

theorem dwindles_closeChannel (part : Nat) (b : Block) (e : Word) : Dwindles s (s.closeChannel part b e) :=
  (dwindles_mapEnds _ _ _ _).trans (dwindles_onPart (fun _ => partKept_setChannel _ _) _)

theorem dwindles_closeSlots (part : Nat) (b : Block) : Dwindles s (s.closeSlots part b) := by
  unfold State.closeSlots
  split
  · exact .refl s
  · refine dwindles_foldl (fun s e => ?_) _ s
    split
    · exact dwindles_closeChannel _ _ _
    · exact .refl s

/-- A block that goes takes its waves with it, and nothing else but what its cluster's checker held for it (R49). -/
theorem dropBlock_blocks (b : Block) : (s.dropBlock b).blocks = s.blocks.filter (fun x => x.uid != b.uid) := rfl
theorem dropBlock_waves (b : Block) : (s.dropBlock b).waves = s.waves.filter (fun w => w.block != b.uid) := rfl

theorem dwindles_dropBlock (b : Block) : Dwindles s (s.dropBlock b) :=
  .of_sub (List.Subset.refl _) List.filter_sublist.subset List.filter_sublist.subset (List.Subset.refl _) rfl

theorem dwindles_freeEndpoints (part : Nat) (gang : Option Nat) : Dwindles s (s.freeEndpoints part gang) := by
  unfold State.freeEndpoints
  split
  · exact .refl s
  · split
    · exact .refl s
    · refine dwindles_onPart (fun _ => ?_) part
      exact .of_eq rfl rfl rfl rfl

/-! ### The record -/

/-- The control core has been told of the kill record, or it waits in the partition for its ring entry at `va` (R125, R380). -/
def Recorded (s : State) (part va : Nat) (record : List Word) : Prop :=
  (∃ failed : Bool, CcEvent.kill record failed ∈ s.events) ∨ ∃ p, s.part? part = some p ∧ (va, record) ∈ p.kills

theorem Recorded.dwindles {part va : Nat} {record : List Word} (h : Recorded s part va record) (k : Dwindles s t) : Recorded t part va record := by
  rcases h with ⟨failed, h⟩ | ⟨p, hp, h⟩
  · exact .inl ⟨failed, k.events h⟩
  · obtain ⟨q, hq, hpq⟩ := k.parts _ _ hp
    exact .inr ⟨q, hq, hpq.kills h⟩

theorem partKept_kills (p : Part) (k : Nat × List Word) : PartKept p { p with kills := p.kills ++ [k] } :=
  ⟨rfl, rfl, List.subset_append_left _ _, fun g h => ⟨g, h, rfl, fun k => k⟩⟩

theorem dwindles_sendKill (p : Part) (va : Nat) (record : List Word) : Dwindles s (s.sendKill p va record) := by
  unfold State.sendKill
  split
  · rename_i h; exact (dwindles_feWrite h).trans (dwindles_tell _)
  · exact dwindles_onPart (fun p => partKept_kills p _) _
  · exact dwindles_tell _

theorem recorded_sendKill {p q : Part} (hq : s.part? p.id = some q) (va : Nat) (record : List Word) :
    Recorded (s.sendKill p va record) p.id va record := by
  unfold State.sendKill
  split
  · exact .inl ⟨false, mem_tell _⟩
  · refine .inr ⟨_, part?_onPart_self ?_ hq, ?_⟩
    · exact fun _ => rfl
    · exact List.mem_append_right _ List.mem_cons_self
  · exact .inl ⟨true, mem_tell _⟩

end Sys2Proof.Machine
end

section
/-! SUPPORT. HALT and the kill of a grid as a whole (R380, R386), and from these the statement about the handler level. -/

namespace Sys2Proof.Machine

variable {s t u : State} {x : Fields} {c : Issue}

/-! ### The grid's blocks go -/

/-- No block of this name is left, and no wave of it. -/
structure NoBlock (n : Nat) (s : State) : Prop where
  blocks : ∀ b ∈ s.blocks, b.uid ≠ n
  waves : ∀ w ∈ s.waves, w.block ≠ n

theorem NoBlock.dwindles {n : Nat} (h : NoBlock n s) (k : Dwindles s t) : NoBlock n t := by
  refine ⟨fun b hb => ?_, fun w hw => ?_⟩
  · obtain ⟨a, ha, hu, -⟩ := k.blocks b hb
    exact hu ▸ h.blocks a ha
  · obtain ⟨v, hv, he⟩ := k.waves w hw
    exact he ▸ h.waves v hv

theorem noBlock_dropBlock (b : Block) : NoBlock b.uid (s.dropBlock b) := by
  refine ⟨fun a ha => ?_, fun w hw => ?_⟩
  · rw [dropBlock_blocks] at ha
    exact bne_iff_ne.1 (List.mem_filter.1 ha).2
  · rw [dropBlock_waves] at hw
    exact bne_iff_ne.1 (List.mem_filter.1 hw).2

/-- Blocks of a partition that go one after another, each with its channel slots closed (R302, R380). -/
def State.dropBlocks (s : State) (part : Nat) (bs : List Block) : State := bs.foldl (fun s b => (s.closeSlots part b).dropBlock b) s

theorem dwindles_dropBlocks (part : Nat) (bs : List Block) : Dwindles s (s.dropBlocks part bs) :=
  dwindles_foldl (fun _ b => (dwindles_closeSlots part b).trans (dwindles_dropBlock b)) bs s

theorem noBlock_dropBlocks (part : Nat) {bs : List Block} {b : Block} (h : b ∈ bs) : NoBlock b.uid (s.dropBlocks part bs) := by
  induction bs generalizing s with
  | nil => cases h
  | cons a bs ih =>
    rcases List.mem_cons.1 h with rfl | h
    · exact (noBlock_dropBlock b).dwindles (dwindles_dropBlocks part bs)
    · exact ih h

/-- The blocks of a grid. -/
def State.gridBlocks (s : State) (gid : Nat) : List Block := s.blocks.filter (fun b => b.grid == gid)

/-- A kill takes the grid's blocks and all that they have under way, once their cores' dirty sectors have been called back (R380). -/
def State.clearBlocks (s : State) (p : Part) (gid : Nat) : State :=
  ((s.abandon ((s.gridBlocks gid).map Block.uid)).recallDirty p (fun d => (s.gridBlocks gid).any (fun b => b.coreIndex == d.core))).dropBlocks
    p.id (s.gridBlocks gid)

theorem dwindles_clearBlocks (p : Part) (gid : Nat) : Dwindles s (s.clearBlocks p gid) :=
  ((dwindles_abandon _).trans (dwindles_recallDirty _ _)).trans (dwindles_dropBlocks _ _)

theorem noBlock_clearBlocks (p : Part) {gid : Nat} {b : Block} (h : b ∈ s.blocks) (hg : b.grid = gid) : NoBlock b.uid (s.clearBlocks p gid) :=
  noBlock_dropBlocks _ (List.mem_filter.2 ⟨h, beq_iff_eq.2 hg⟩)

/-- No block of the grid is left. -/
theorem clearBlocks_grid (p : Part) (gid : Nat) : ∀ b ∈ (s.clearBlocks p gid).blocks, b.grid ≠ gid := by
  intro b hb hg
  obtain ⟨a, ha, hu, hag⟩ := (dwindles_clearBlocks p gid).blocks b hb
  exact (noBlock_clearBlocks p ha (hag.trans hg)).blocks b hb hu.symm

/-! ### The grid goes -/

/-- Every gate generation that the grid opens is open (R45, R380). -/
def GatesOpen (gid : Nat) (p : Part) : Prop := ∀ g ∈ p.gates, g.opener = gid → g.isOpen = true

theorem GatesOpen.kept {gid : Nat} {p q : Part} (h : GatesOpen gid p) (k : PartKept p q) : GatesOpen gid q := by
  intro g hg ho
  obtain ⟨g', hg', ho', hi⟩ := k.gates g hg
  exact hi (h g' hg' (ho'.trans ho))

/-- The partition without a grid: its gates open, its dispensers free, its tasks gone (R45, R334, R380). -/
def Part.forget (p : Part) (gid : Nat) : Part :=
  { p with gates := p.gates.map (fun x => if x.opener = gid then { x with isOpen := true } else x)
           dispensers := p.dispensers.map (fun e => if e.2.grid = some gid then (e.1, { e.2 with grid := none }) else e)
           tasks := p.tasks.filter (fun t => t.grid != gid)
           taskWaves := p.taskWaves.filter (fun t => t.grid != gid) }

theorem forgetGrid_eq (g : Grid) : s.forgetGrid g =
    (({ s with grids := s.grids.filter (fun x => x.id != g.id) } : State).onPart g.part (fun p => p.forget g.id)).freeEndpoints g.part g.gang := rfl

theorem gatesOpen_forget (p : Part) (gid : Nat) : GatesOpen gid (p.forget gid) := by
  intro g hg ho
  obtain ⟨x, -, rfl⟩ := List.mem_map.1 hg
  by_cases hx : x.opener = gid
  · rw [if_pos hx]
  · rw [if_neg hx] at ho
    exact absurd ho hx

theorem partKept_forget (p : Part) (gid : Nat) : PartKept p (p.forget gid) := by
  refine ⟨rfl, rfl, List.Subset.refl _, fun g hg => ?_⟩
  obtain ⟨x, hx, rfl⟩ := List.mem_map.1 hg
  by_cases ho : x.opener = gid
  · rw [if_pos ho]; exact ⟨x, hx, rfl, fun _ => rfl⟩
  · rw [if_neg ho]; exact ⟨x, hx, rfl, fun h => h⟩

theorem dwindles_dropGrid (gid : Nat) : Dwindles s { s with grids := s.grids.filter (fun x => x.id != gid) } :=
  .of_sub List.filter_sublist.subset (List.Subset.refl _) (List.Subset.refl _) (List.Subset.refl _) rfl

theorem dwindles_forgetGrid (g : Grid) : Dwindles s (s.forgetGrid g) := by
  rw [forgetGrid_eq]
  exact (dwindles_dropGrid g.id).trans ((dwindles_onPart (fun p => partKept_forget p g.id) _).trans (dwindles_freeEndpoints _ _))

theorem forgetGrid_grids (g : Grid) : ∀ y ∈ (s.forgetGrid g).grids, y.id ≠ g.id := by
  intro y hy
  rw [forgetGrid_eq] at hy
  have hmem := (dwindles_freeEndpoints _ _).grids hy
  rw [State.onPart_grids] at hmem
  exact bne_iff_ne.1 (List.mem_filter.1 hmem).2

theorem forgetGrid_gates {g : Grid} {p : Part} (hp : s.part? g.part = some p) :
    ∃ q, (s.forgetGrid g).part? g.part = some q ∧ GatesOpen g.id q := by
  obtain ⟨q, hq, hkept⟩ := (dwindles_freeEndpoints g.part g.gang).parts g.part (p.forget g.id)
    (part?_onPart_self (s := { s with grids := s.grids.filter (fun x => x.id != g.id) }) (f := fun p => p.forget g.id) (fun _ => rfl) hp)
  exact ⟨q, hq, (gatesOpen_forget p g.id).kept hkept⟩

/-! ### The grid's packet, its graph and its queue -/

/-- The packet that launched the grid is in flight no longer (R329, R380). -/
def State.dropFlight (s : State) (part : Nat) (g : Grid) (gid : Nat) : State :=
  s.onPart part (fun p => p.setQueue g.queue
    { p.queue g.queue with flights := (p.queue g.queue).flights.filter (fun f => f.work != .grid gid) })

/-- A graph run that launched a killed grid as node `n` has met a fault (R344). -/
def GraphRun.faulted (r : GraphRun) (n : Nat) : GraphRun :=
  { r with fault := true, marking := true, ready := [], running := r.running.filter (fun m => m != n) }

/-- Where a graph launched the grid, its run takes the fault, and its table as far as it can be reached (R344). -/
def State.faultRun (s : State) (part : Nat) (g : Grid) : State :=
  match g.node, (s.part? part).bind (fun p => p.graphs.find? (fun r => r.slot == g.queue && r.index == g.index)) with
  | some n, some r =>
    (s.onPart part (fun p => { p with graphs := p.graphs.map (fun (x : GraphRun) => if x.table = r.table then x.faulted n else x) })).markGraph
      part r.table
  | _, _ => s

theorem partKept_setQueue (p : Part) (slot : Nat) (q : Queue) : PartKept p (p.setQueue slot q) := .of_eq rfl rfl rfl rfl

theorem dwindles_dropFlight (part : Nat) (g : Grid) (gid : Nat) : Dwindles s (s.dropFlight part g gid) := by
  refine dwindles_onPart (fun p => ?_) part
  exact partKept_setQueue p _ _

theorem dwindles_faultRun (part : Nat) (g : Grid) : Dwindles s (s.faultRun part g) := by
  unfold State.faultRun
  split
  · refine Dwindles.trans (dwindles_onPart (fun p => ?_) part) (dwindles_markGraph _ _)
    exact .of_eq rfl rfl rfl rfl
  · exact .refl s

theorem dwindles_endFaulted (part : Nat) : Dwindles s (s.onPart part Part.endFaulted) :=
  dwindles_onPart (f := Part.endFaulted) (fun _ => .of_eq rfl rfl rfl rfl) part

/-! ### All that a kill does between its record and its queue's fault -/

/-- The grid ends: its blocks, the grid itself, its packet's flight and its graph's run (R380). -/
def State.endGrid (s : State) (p : Part) (g : Grid) : State :=
  ((((s.clearBlocks p g.id).forgetGrid g).dropFlight p.id g g.id).faultRun p.id g).onPart p.id Part.endFaulted

/-- The steps that follow once the grid is forgotten. -/
theorem dwindles_endGrid_of_forgetGrid (p : Part) (g : Grid) : Dwindles ((s.clearBlocks p g.id).forgetGrid g) (s.endGrid p g) :=
  (dwindles_dropFlight _ _ _).trans ((dwindles_faultRun _ _).trans (dwindles_endFaulted _))

theorem dwindles_endGrid_of_clearBlocks (p : Part) (g : Grid) : Dwindles (s.clearBlocks p g.id) (s.endGrid p g) :=
  (dwindles_forgetGrid g).trans (dwindles_endGrid_of_forgetGrid p g)

theorem dwindles_endGrid (p : Part) (g : Grid) : Dwindles s (s.endGrid p g) :=
  (dwindles_clearBlocks p g.id).trans (dwindles_endGrid_of_clearBlocks p g)

theorem endGrid_grids (p : Part) (g : Grid) : ∀ y ∈ (s.endGrid p g).grids, y.id ≠ g.id :=
  fun y hy => forgetGrid_grids g y ((dwindles_endGrid_of_forgetGrid p g).grids hy)

theorem endGrid_blocks (p : Part) (g : Grid) : ∀ b ∈ (s.endGrid p g).blocks, b.grid ≠ g.id := by
  intro b hb
  obtain ⟨a, ha, -, hg⟩ := (dwindles_endGrid_of_clearBlocks p g).blocks b hb
  exact hg ▸ clearBlocks_grid p g.id a ha

theorem noBlock_endGrid (p : Part) {g : Grid} {b : Block} (h : b ∈ s.blocks) (hg : b.grid = g.id) : NoBlock b.uid (s.endGrid p g) :=
  (noBlock_clearBlocks p h hg).dwindles (dwindles_endGrid_of_clearBlocks p g)

theorem endGrid_part? (p : Part) {g : Grid} {q : Part} (hq : s.part? g.part = some q) :
    ∃ r, (s.endGrid p g).part? g.part = some r ∧ PartKept q r ∧ GatesOpen g.id r := by
  obtain ⟨q1, hq1, -⟩ := (dwindles_clearBlocks p g.id).parts _ _ hq
  obtain ⟨q2, hq2, hopen⟩ := forgetGrid_gates hq1
  obtain ⟨r, hr, hkept⟩ := (dwindles_endGrid_of_forgetGrid p g).parts _ _ hq2
  obtain ⟨r', hr', hkept'⟩ := (dwindles_endGrid p g).parts _ _ hq
  have hsame : r' = r := Option.some.inj (hr'.symm.trans hr)
  exact ⟨r, hr, hsame ▸ hkept', hopen.kept hkept⟩

/-! ### The queue's fault -/

theorem dwindles_faultQueue (part slot reason faddr : Nat) : Dwindles s (s.faultQueue part slot reason faddr) :=
  Dwindles.trans (dwindles_onPart (f := fun p => p.setQueue slot
    { p.queue slot with flag := .faulted, reason := reason, faddr := BitVec.ofNat 64 faddr }) (fun p => partKept_setQueue p _ _) part)
    ((dwindles_tell _).trans (dwindles_tell _))

/-- The faulted queue's slot (R349). -/
theorem queue_setQueue_self (p : Part) (slot : Nat) (q : Queue) : (p.setQueue slot q).queue slot = q := by
  unfold Part.queue Part.setQueue
  rw [Sparse.get_set, if_pos rfl]

theorem faultQueue_part? {part : Nat} {q : Part} (slot reason faddr : Nat) (hq : s.part? part = some q) :
    (s.faultQueue part slot reason faddr).part? part =
      some (q.setQueue slot { q.queue slot with flag := .faulted, reason := reason, faddr := BitVec.ofNat 64 faddr }) :=
  part?_onPart_self (fun _ => rfl) hq

/-! ### Writing the record leaves the blocks alone -/

theorem noteError_blocks (place addr part : Nat) : (s.noteError place addr part).blocks = s.blocks := rfl

theorem writeBack_blocks (d : Dirty) : (s.writeBack d).blocks = s.blocks := State.writeCells_blocks s (State.dirtyCells d)

theorem flush_blocks (p : Part) (q : Dirty → Bool) : (s.flush p q).blocks = s.blocks := by
  refine foldl_view _ State.blocks (fun s d => ?_) _ s
  have hback : ((s.badWords d).foldl (fun t w => t.noteError 3 (4 * w) p.id) ((s.writeBack d).countMoved p.id [d.sector])).blocks = s.blocks :=
    (foldl_view _ State.blocks (fun _ _ => noteError_blocks _ _ _) _ _).trans (writeBack_blocks d)
  dsimp only
  split
  · exact hback
  · exact hback

theorem recallDirty_blocks (p : Part) (q : Dirty → Bool) : (s.recallDirty p q).blocks = s.blocks := by
  unfold State.recallDirty
  dsimp only
  split
  · exact flush_blocks p q
  · exact flush_blocks p q

theorem touchPage_blocks (p : Part) (die va : Nat) : (s.touchPage p die va).blocks = s.blocks := by
  have h : SpillsTo s (s.touchPage p die va) := spillsTo_touchPage p die va
  rw [h]

theorem feWrite_blocks {p : Part} {va : Nat} {bs : List Byte} (h : s.feWrite p va bs = .ok t) : t.blocks = s.blocks := by
  unfold State.feWrite at h
  obtain ⟨as_, -, h⟩ := reach_of_bind h
  cases h
  refine (State.writeCells_blocks _ _).trans ((foldl_view _ State.blocks (fun _ _ => recallDirty_blocks _ _) _ _).trans ?_)
  exact foldl_view _ State.blocks (fun _ _ => touchPage_blocks _ _ _) _ _

theorem sendKill_blocks (p : Part) (va : Nat) (record : List Word) : (s.sendKill p va record).blocks = s.blocks := by
  unfold State.sendKill
  split
  · rename_i h; exact (feWrite_blocks h :)
  · exact State.onPart_blocks _ _ _
  · rfl

theorem writeKillRecord_blocks (p : Part) (record : List Word) : (s.writeKillRecord p record).blocks = s.blocks :=
  (sendKill_blocks _ _ _).trans (State.onPart_blocks _ _ _)

/-! ### The kill as a whole -/

/-- The entry of the ring that a partition's next kill record takes (R380). -/
def Part.ringEntry (p : Part) : Nat := p.xlate.frbase.toNat + 64 * (p.xlate.fridx.toNat % 16)

/-- The partition once a kill record has taken a ring entry. -/
def Part.ringNext (p : Part) : Part := { p with xlate := { p.xlate with fridx := p.xlate.fridx + 1 } }

theorem writeKillRecord_eq (p : Part) (record : List Word) :
    s.writeKillRecord p record = (s.onPart p.id Part.ringNext).sendKill p p.ringEntry record := rfl

theorem writeKillRecord_part? {p : Part} (record : List Word) (hp : s.part? p.id = some p) :
    ∃ q, (s.writeKillRecord p record).part? p.id = some q ∧ PartKept p.ringNext q :=
  (dwindles_sendKill p p.ringEntry record).parts _ _ (part?_onPart_self (f := Part.ringNext) (fun _ => rfl) hp)

theorem recorded_writeKillRecord {p : Part} (record : List Word) (hp : s.part? p.id = some p) :
    Recorded (s.writeKillRecord p record) p.id p.ringEntry record :=
  recorded_sendKill (part?_onPart_self (f := Part.ringNext) (fun _ => rfl) hp) p.ringEntry record

/-- The steps of a kill in their order (R380). -/
theorem killGrid_eq {g : Grid} {p : Part} (hg : s.grid? g.id = some g) (hp : s.part? g.part = some p) (lin cluster waveId : Nat)
    (k : KillCause) :
    s.killGrid g.id lin cluster waveId k =
      ((s.writeKillRecord p (killRecord s p g lin cluster waveId k)).endGrid p g).faultQueue p.id g.queue 0x80
        (packetAddr (p.queue g.queue) g.index) := by
  unfold State.killGrid
  rw [hg]
  dsimp only
  rw [hp]
  rfl

theorem grid?_id {i : Nat} {g : Grid} (h : s.grid? i = some g) : g.id = i := by
  have := List.find?_some h
  simpa using this

/-- What is left of a grid whose issuing group has killed it (R380). -/
theorem killed_killOwn (hc : s.issue? x = some c) (tr : Trap) (cause : Nat) (word10 : Word) :
    Killed s (s.killOwn c (killCause c tr cause word10)) c cause tr.detail (maskOf c.active) tr.addr word10 := by
  obtain ⟨-, -, -, hgrid, hpart, -, -⟩ := issue?_cases hc
  have hpid : c.part.id = c.grid.part := part?_id hpart
  have hself : s.part? c.part.id = some c.part := hpid ▸ hpart
  have hkill := killGrid_eq ((grid?_id hgrid).symm ▸ hgrid) hpart c.block.lin c.block.cluster c.wave.waveId (killCause c tr cause word10)
  generalize hr : killRecord s c.part c.grid c.block.lin c.block.cluster c.wave.waveId (killCause c tr cause word10) = record at hkill
  obtain ⟨q, hq, hkept⟩ := writeKillRecord_part? record hself
  obtain ⟨r, hr', hkept', hopen⟩ := endGrid_part? c.part (g := c.grid) (hpid ▸ hq)
  have hend := dwindles_endGrid (s := s.writeKillRecord c.part record) c.part c.grid
  have hfault := dwindles_faultQueue (s := (s.writeKillRecord c.part record).endGrid c.part c.grid) c.part.id c.grid.queue 0x80
    (packetAddr (c.part.queue c.grid.queue) c.grid.index)
  show Killed s (s.killGrid c.grid.id _ _ _ _) c cause tr.detail (maskOf c.active) tr.addr word10
  rw [hkill]
  refine ⟨?_, fun b hb => ?_, fun w hw b hb hg => ?_, ⟨_, faultQueue_part? _ _ _ (hpid ▸ hr'), ?_⟩, ?_⟩
  · exact List.find?_eq_none.2 (fun y hy => by simpa using endGrid_grids c.part c.grid y (hfault.grids hy))
  · obtain ⟨a, ha, -, hg⟩ := hfault.blocks b hb
    exact hg ▸ endGrid_blocks c.part c.grid a ha
  · have hb1 : b ∈ (s.writeKillRecord c.part record).blocks := (writeKillRecord_blocks c.part record).symm ▸ hb
    exact ((noBlock_endGrid c.part hb1 hg).dwindles hfault).waves w hw
  · rw [queue_setQueue_self]
    exact ⟨rfl, rfl, rfl, congrArg Xlate.fridx (hkept.trans hkept').xlate, hopen⟩
  · exact hr ▸ (recorded_writeKillRecord record hself).dwindles (hend.trans hfault)

/-! ### HALT -/

theorem halt_kills (hc : s.issue? x = some c) (ha : c.active ≠ []) (hh : c.wave.handler = true) (hr : Readable s c [srcA x 1] .zero 1)
    (hp : Sound s c [srcA x 1]) :
    exec (.halt x) s = .next (s.killOwn c
      (killCause c { code := Cause.halted, detail := bits32 s c x.a 0, addr := 0 } Cause.halted (bits32 s c x.a 0))) := by
  refine issue_stay hc ?_
  rw [checkLevel_handler hh, checkOperands_ready hr, checkPoison_sound hp, List.isEmpty_eq_false_iff.2 ha]
  rfl

theorem handlerInstructions_hold : handlerInstructions := by
  refine ⟨fun s x c hm ha hh hp hn h7 => ⟨movcr_wrote hm ha hh hp hn h7, fun hr hb => ?_⟩,
    fun s x c hc ha hh hw hmod hin => eret_returns hc ha hh hw hmod hin,
    fun s x c hc ha hh hr hp => ⟨_, halt_kills hc ha hh hr hp, killed_killOwn hc _ _ _⟩⟩
  obtain ⟨t, ht, hpast⟩ := movrc_past hm ha hh (sound_append hp hb) hn h7 hr
  refine ⟨t, ht, ?_⟩
  have hwrite := trapRegs_write c.wave.trap (bits32 s c x.a 0).toNat (bits32 s c x.b 0)
  rw [hwrite] at hpast
  exact hpast

/-- Settles O31: MOVCR, MOVRC, SHDW and TLBI pass their checks and change D, the trap record or the cached translations alone; ERET's group
jumps to RPC as a whole and leaves the handler; HALT runs the steps of a kill, of which none brings back what another has taken away. -/
theorem handlerLevel : Obligations.HandlerLevel := ⟨handlerInstructions_hold, shadowAndTlb_hold⟩

end Sys2Proof.Machine
end
